-- ==== Sys2Proof/Word.lean ====
section
/-! DEFINITION. The word types: bytes and the 7-bit slave address (00_scope.md R7, 10_state.md R18). -/

namespace Sys2Proof

/-- A byte, bits numbered 7 (most significant) to 0 (R7). -/
abbrev Byte := BitVec 8

/-- A 7-bit I²C slave address (R18). -/
abbrev SlaveAddr := BitVec 7

end Sys2Proof
end

