-- ==== Sys2Proof/Config.lean ====
section
/-! DEFINITION. What an implementation fixes (00_scope.md R6, 10_state.md R13, R19, R20), the answers TRANSPORT can give
(40_transport.md R67, R69), and the free values: opaque constants without a body, of which nothing can be proved. -/

namespace Sys2Proof

/-- The transport error kinds (R67): "Errors: `Nack`, `BusError`, `Timeout`." -/
inductive IoError where
  | nack
  | busError
  | timeout
  deriving DecidableEq, Repr, Inhabited

/-- TRANSPORT's answer to one transaction (R67). -/
inductive Answer where
  | ok
  | err (k : IoError)
  deriving DecidableEq, Repr, Inhabited

/-- One reply of TRANSPORT: its answer, and how many leading bytes of the transaction PANEL received when the answer is an
error (R69: any number, none to all). After `Ok` all of it was received and the number is not looked at. -/
structure Reply where
  answer : Answer
  delivered : Nat
  deriving DecidableEq, Repr, Inhabited

/-- What an off pixel of a glyph does (R19, R109). `overwrite` is the spec's OPAQUE. -/
inductive BlitMode where
  | transparent
  | overwrite
  deriving DecidableEq, Repr, Inhabited

/-- The registers of PANEL whose power-on value is unspecified (R24, R26, R29). -/
inductive PanelReg where
  | displayOn
  | clockDiv
  | mux
  | displayOffset
  | startLine
  | chargePump
  | addrMode
  | segRemap
  | comScanDec
  | comPins
  | contrast
  | precharge
  | vcomh
  | entireOn
  | invert
  | colStart
  | colEnd
  | colPtr
  | pageStart
  | pageEnd
  | pagePtr
  deriving DecidableEq, Repr, Inhabited

namespace Config

/-- Framebuffer and panel width `W` in pixels (R6). -/
def width : Nat := 128

/-- Framebuffer and panel height `H` in pixels (R6). -/
def height : Nat := 32

/-- Framebuffer length `FB_BYTES` (R6). -/
def fbBytes : Nat := 512

/-- Glyph width `GW`, also the advance (R6). -/
def glyphWidth : Nat := 8

/-- Glyph height `GH` (R6). -/
def glyphHeight : Nat := 13

/-- The first code point that has a glyph, `CP_FIRST` (R6). -/
def cpFirst : Nat := 0x20

/-- The last code point that has a glyph, `CP_LAST` (R6). -/
def cpLast : Nat := 0x7E

/-- Bytes of the font table: 95 glyphs of 13 rows (R42). -/
def fontBytes : Nat := 1235

/-- Bytes of the panel's display RAM: 8 pages of 128 columns (R25). -/
def gddramBytes : Nat := 1024

/-- The largest legal `DATA_CHUNK` (R19). -/
def maxChunk : Nat := 32

/-- The block's configuration, "fixed for a run and taken by the model as arguments" (R13): the font table in the byte layout of
R42, the blit mode and the data chunk size (R19). State carries it unchanged, so every statement about all states holds for
every legal value of it (log 2). -/
structure Params where
  font : List Byte
  blitMode : BlitMode
  dataChunk : Nat
  deriving DecidableEq, Repr, Inhabited

/-- The legal configurations: 1235 font bytes (R42) and a chunk of 1 to 32 (R19). -/
def Params.wf (p : Params) : Bool :=
  decide (p.font.length = fontBytes) && decide (1 ≤ p.dataChunk) && decide (p.dataChunk ≤ maxChunk)

/-- FREE VALUE: byte `i` of the font table, whose contents are in no source (R20; log 3). -/
opaque fontByte : Nat → Byte

/-- FREE VALUE: the power-on content of framebuffer byte `i`, drawn once (R28; log 7). -/
opaque powerOnFb : Nat → Byte

/-- FREE VALUE: the power-on content of display RAM byte `a` (R29; log 8). -/
opaque powerOnGddram : Nat → Byte

/-- FREE VALUE: the power-on content of a panel register (R29; log 9). A register narrower than a byte takes its low bits. -/
opaque powerOnPanel : PanelReg → Byte

/-- FREE VALUE: the `n`-th reply of TRANSPORT once the listed replies are used up (R68, R69; log 10). -/
opaque freeReply : Nat → Reply

/-- FREE VALUE: the `n`-th byte drawn by PANEL (R84, R105; log 12, log 13). -/
opaque freeByte : Nat → Byte

/-- The spec's own configuration: the unknown font, `TRANSPARENT` (D4) and chunks of 16 (D7). -/
def specParams : Params where
  font := (List.range fontBytes).map fontByte
  blitMode := .transparent
  dataChunk := 16

end Config

end Sys2Proof
end

