-- ==== Sys2Proof/Syntax.lean ====
section
/-! DEFINITION. The instructions: one constructor per row of spec/opcode_table.json (30_encoding.md R50, R56, R61, R58). -/

namespace Sys2Proof

/-- Who reads an encoding (R50): BLOCK reading HOST's bytes, PANEL reading the first byte of a transaction, or PANEL reading a
command payload. -/
inductive Port where
  | host
  | control
  | command
  deriving DecidableEq, Repr, Inhabited

/-- The rows of the opcode table: 6 host operations, 18 SSD1306 commands, 2 control bytes. -/
inductive Instr where
  /-- CLEAR, R110. -/
  | clear
  /-- SET_PIXEL x, y, on, R111. -/
  | setPixel (x y : Int) (on : Bool)
  /-- DRAW_TEXT x, y, s, R113: `s` a sequence of code points. -/
  | drawText (x y : Int) (s : List Nat)
  /-- READ_FB i, R112. -/
  | readFb (i : Nat)
  /-- INIT, R79. -/
  | init
  /-- FLUSH, R80. -/
  | flush
  /-- DISPLAY_OFF, AE, R87. -/
  | displayOff
  /-- SET_CLOCK_DIV, D5 80, R88. -/
  | setClockDiv
  /-- SET_MULTIPLEX, A8 1F, R89. -/
  | setMultiplex
  /-- SET_DISPLAY_OFFSET, D3 00, R90. -/
  | setDisplayOffset
  /-- SET_START_LINE_0, 40, R91. -/
  | setStartLine0
  /-- CHARGE_PUMP, 8D 14, R92. -/
  | chargePump
  /-- SET_ADDR_MODE, 20 00, R93. -/
  | setAddrMode
  /-- SEG_REMAP, A1, R94. -/
  | segRemap
  /-- COM_SCAN_DEC, C8, R95. -/
  | comScanDec
  /-- SET_COM_PINS, DA 02, R96. -/
  | setComPins
  /-- SET_CONTRAST, 81 8F, R97. -/
  | setContrast
  /-- SET_PRECHARGE, D9 F1, R98. -/
  | setPrecharge
  /-- SET_VCOMH, DB 40, R99. -/
  | setVcomh
  /-- ENTIRE_DISPLAY_RESUME, A4, R100. -/
  | entireDisplayResume
  /-- NORMAL_DISPLAY, A6, R101. -/
  | normalDisplay
  /-- DISPLAY_ON, AF, R102. -/
  | displayOn
  /-- SET_COLUMN_RANGE a b, 21 a b, R103. -/
  | setColumnRange (a b : Byte)
  /-- SET_PAGE_RANGE a b, 22 a b, R104. -/
  | setPageRange (a b : Byte)
  /-- CTRL_COMMAND, control byte 00, R85. -/
  | ctrlCommand
  /-- CTRL_DATA, control byte 40, R85. -/
  | ctrlData
  deriving DecidableEq, Repr, Inhabited

/-- Where an instruction is read (R50). -/
def Instr.port : Instr → Port
  | .clear | .setPixel _ _ _ | .drawText _ _ _ | .readFb _ | .init | .flush => .host
  | .displayOff | .setClockDiv | .setMultiplex | .setDisplayOffset | .setStartLine0 | .chargePump | .setAddrMode => .command
  | .segRemap | .comScanDec | .setComPins | .setContrast | .setPrecharge | .setVcomh | .entireDisplayResume => .command
  | .normalDisplay | .displayOn | .setColumnRange _ _ | .setPageRange _ _ => .command
  | .ctrlCommand | .ctrlData => .control

end Sys2Proof
end

