-- ==== Sys2Proof/WellFormed.lean ====
section
/-! DEFINITION. The operand checks of the encodings (30_encoding.md R53 to R55, R61, R63; 42_ssd1306_commands.md R103, R104). -/

namespace Sys2Proof

/-- `v` fits a signed 32-bit operand (R53). -/
def isS32 (v : Int) : Bool := decide (-2147483648 ≤ v) && decide (v ≤ 2147483647)

/-- `v` is a Unicode scalar value: "0 to 0x10FFFF, not 0xD800 to 0xDFFF" (R54). -/
def isScalar (v : Nat) : Bool := decide (v ≤ 0x10FFFF) && !(decide (0xD800 ≤ v) && decide (v ≤ 0xDFFF))

/-- A column window SET_COLUMN_RANGE has an effect for: not `a > b`, neither above 0x7F (R103; log 16). -/
def columnRangeOk (a b : Byte) : Bool := decide (a.toNat ≤ b.toNat) && decide (b.toNat ≤ 0x7F)

/-- A page window SET_PAGE_RANGE has an effect for: not `a > b`, neither above 0x07 (R104; log 16). -/
def pageRangeOk (a b : Byte) : Bool := decide (a.toNat ≤ b.toNat) && decide (b.toNat ≤ 0x07)

/-- The instructions that have an encoding. A range command has one only with the window the block sends: "only the exact bytes of
rule R61 are in the model" (R60, R61, R63). -/
def Instr.wf : Instr → Bool
  | .setPixel x y _ => isS32 x && isS32 y
  | .drawText x y s => isS32 x && isS32 y && decide (s.length < 4294967296) && s.all isScalar
  | .readFb i => decide (i ≤ 511)
  | .setColumnRange a b => decide (a = 0x00#8) && decide (b = 0x7F#8)
  | .setPageRange a b => decide (a = 0x00#8) && decide (b = 0x03#8)
  | .clear | .init | .flush | .displayOff | .setClockDiv | .setMultiplex | .setDisplayOffset | .setStartLine0 => true
  | .chargePump | .setAddrMode | .segRemap | .comScanDec | .setComPins | .setContrast | .setPrecharge | .setVcomh => true
  | .entireDisplayResume | .normalDisplay | .displayOn | .ctrlCommand | .ctrlData => true

end Sys2Proof
end

