-- ==== Sys2Proof/Decode.lean ====
section
/-! DEFINITION. Decoding of host operations (30_encoding.md R51 to R56), control bytes (R58, R59) and SSD1306 commands
(R60 to R63), total on any bytes and rejecting by name; after it the encoder. -/

namespace Sys2Proof

/-- Why bytes decode to no instruction (60_exceptions.md R137). -/
inductive Reject where
  /-- No byte at all: shorter than any format (R56). -/
  | noBytes
  /-- A reserved host opcode, 0x00 or 0x07 to 0xFF (R56). -/
  | hostOpcode (op : Byte)
  /-- A host byte string shorter than its format (R56). -/
  | shortOperation (op : Byte)
  /-- A SET_PIXEL `on` byte other than 0x00 or 0x01 (R53). -/
  | pixelOn (b : Byte)
  /-- A READ_FB index above 511 (R55). -/
  | readIndex (i : Nat)
  /-- A DRAW_TEXT value that is no Unicode scalar value (R54). -/
  | codePoint (v : Nat)
  /-- A control byte other than 0x00 and 0x40 (R85). -/
  | controlByte (b : Byte)
  /-- A command byte not in R61 (R86). -/
  | commandByte (b : Byte)
  /-- A parameter the block never sends (R63, R86, R137). -/
  | parameter (cmd p : Byte)
  /-- The payload ends inside a command (R84); PANEL then draws the register, log 12. -/
  | partialCommand (cmd : Byte)
  deriving DecidableEq, Repr, Inhabited

/-! ## Fields -/

/-- A little-endian 32-bit field, first byte first: `b4·2^24 + b3·2^16 + b2·2^8 + b1` (R53). -/
def le32 (b0 b1 b2 b3 : Byte) : BitVec 32 :=
  BitVec.ofNat 32 (b3.toNat * 2 ^ 24 + b2.toNat * 2 ^ 16 + b1.toNat * 2 ^ 8 + b0.toNat)

/-- A little-endian 16-bit field (R55). -/
def le16 (b0 b1 : Byte) : BitVec 16 := BitVec.ofNat 16 (b1.toNat * 2 ^ 8 + b0.toNat)

/-- The bytes of a 32-bit field, least significant first (R51). -/
def le32Bytes (w : BitVec 32) : List Byte :=
  [BitVec.ofNat 8 w.toNat, BitVec.ofNat 8 (w.toNat / 2 ^ 8), BitVec.ofNat 8 (w.toNat / 2 ^ 16), BitVec.ofNat 8 (w.toNat / 2 ^ 24)]

/-- The bytes of a 16-bit field, least significant first (R55). -/
def le16Bytes (w : BitVec 16) : List Byte := [BitVec.ofNat 8 w.toNat, BitVec.ofNat 8 (w.toNat / 2 ^ 8)]

/-! ## Host operations -/

/-- `n` code points of four bytes each (R54). -/
def decodeCodePoints : Nat → List Byte → Except Reject (List Nat × List Byte)
  | 0, bs => .ok ([], bs)
  | n + 1, b0 :: b1 :: b2 :: b3 :: bs =>
    let v := (le32 b0 b1 b2 b3).toNat
    if isScalar v then
      match decodeCodePoints n bs with
      | .ok (cps, rest) => .ok (v :: cps, rest)
      | .error r => .error r
    else .error (.codePoint v)
  | _ + 1, _ => .error (.shortOperation 0x03#8)

/-- SET_PIXEL with its `on` byte (R53). -/
def pixelOperation (x y : Int) (on : Byte) (rest : List Byte) : Except Reject (Instr × List Byte) :=
  if on = 0x00#8 then .ok (.setPixel x y false, rest)
  else if on = 0x01#8 then .ok (.setPixel x y true, rest)
  else .error (.pixelOn on)

/-- SET_PIXEL's operands, format HPIX (R53). -/
def decodePixel : List Byte → Except Reject (Instr × List Byte)
  | x0 :: x1 :: x2 :: x3 :: y0 :: y1 :: y2 :: y3 :: on :: rest =>
    pixelOperation (le32 x0 x1 x2 x3).toInt (le32 y0 y1 y2 y3).toInt on rest
  | _ => .error (.shortOperation 0x02#8)

/-- DRAW_TEXT with its count `n` and the bytes after it (R54). A count that the bytes do not cover is a short operation, found before
any code point is read. -/
def textOperation (x y : Int) (n : Nat) (bs : List Byte) : Except Reject (Instr × List Byte) :=
  if bs.length < 4 * n then .error (.shortOperation 0x03#8)
  else
    match decodeCodePoints n bs with
    | .ok (cps, rest) => .ok (.drawText x y cps, rest)
    | .error r => .error r

/-- DRAW_TEXT's operands, format HTXT (R54). -/
def decodeText : List Byte → Except Reject (Instr × List Byte)
  | x0 :: x1 :: x2 :: x3 :: y0 :: y1 :: y2 :: y3 :: n0 :: n1 :: n2 :: n3 :: bs =>
    textOperation (le32 x0 x1 x2 x3).toInt (le32 y0 y1 y2 y3).toInt (le32 n0 n1 n2 n3).toNat bs
  | _ => .error (.shortOperation 0x03#8)

/-- READ_FB with its index (R55). -/
def readOperation (i : Nat) (rest : List Byte) : Except Reject (Instr × List Byte) :=
  if i ≤ 511 then .ok (.readFb i, rest) else .error (.readIndex i)

/-- READ_FB's operand, format HRD (R55). -/
def decodeRead : List Byte → Except Reject (Instr × List Byte)
  | i0 :: i1 :: rest => readOperation (le16 i0 i1).toNat rest
  | _ => .error (.shortOperation 0x04#8)

/-- The host opcode map (R56). Bytes after the operation's own are left for the next one (log 17). -/
def decodeHost : List Byte → Except Reject (Instr × List Byte)
  | [] => .error .noBytes
  | op :: bs =>
    if op = 0x01#8 then .ok (.clear, bs)
    else if op = 0x02#8 then decodePixel bs
    else if op = 0x03#8 then decodeText bs
    else if op = 0x04#8 then decodeRead bs
    else if op = 0x05#8 then .ok (.init, bs)
    else if op = 0x06#8 then .ok (.flush, bs)
    else .error (.hostOpcode op)

/-! ## Control bytes -/

/-- The control byte of a transaction (R58, R85). -/
def decodeControl : List Byte → Except Reject (Instr × List Byte)
  | [] => .error .noBytes
  | b :: bs =>
    if b = 0x00#8 then .ok (.ctrlCommand, bs)
    else if b = 0x40#8 then .ok (.ctrlData, bs)
    else .error (.controlByte b)

/-! ## SSD1306 commands -/

/-- A row of the command map: the command byte, its fixed parameters (none, one or two for formats C1, C2, C3), the instruction. -/
structure CommandRow where
  cmd : Byte
  params : List Byte
  instr : Instr
  deriving DecidableEq, Repr, Inhabited

/-- The command map, complete, with "only the exact bytes" of it in the model (R61, R63). -/
def commandRows : List CommandRow :=
  [⟨0xAE#8, [], .displayOff⟩, ⟨0xD5#8, [0x80#8], .setClockDiv⟩, ⟨0xA8#8, [0x1F#8], .setMultiplex⟩,
   ⟨0xD3#8, [0x00#8], .setDisplayOffset⟩, ⟨0x40#8, [], .setStartLine0⟩, ⟨0x8D#8, [0x14#8], .chargePump⟩,
   ⟨0x20#8, [0x00#8], .setAddrMode⟩, ⟨0xA1#8, [], .segRemap⟩, ⟨0xC8#8, [], .comScanDec⟩,
   ⟨0xDA#8, [0x02#8], .setComPins⟩, ⟨0x81#8, [0x8F#8], .setContrast⟩, ⟨0xD9#8, [0xF1#8], .setPrecharge⟩,
   ⟨0xDB#8, [0x40#8], .setVcomh⟩, ⟨0xA4#8, [], .entireDisplayResume⟩, ⟨0xA6#8, [], .normalDisplay⟩,
   ⟨0xAF#8, [], .displayOn⟩, ⟨0x21#8, [0x00#8, 0x7F#8], .setColumnRange 0x00#8 0x7F#8⟩,
   ⟨0x22#8, [0x00#8, 0x03#8], .setPageRange 0x00#8 0x03#8⟩]

/-- The fixed parameters of a command at the front of `bs`: what follows them, or why they are not there (R84, R86). -/
def takeParams (cmd : Byte) : List Byte → List Byte → Except Reject (List Byte)
  | [], bs => .ok bs
  | _ :: _, [] => .error (.partialCommand cmd)
  | q :: qs, p :: bs => if p = q then takeParams cmd qs bs else .error (.parameter cmd p)

/-- A command of a row of the map, its command byte already read. -/
def decodeRow (row : CommandRow) (bs : List Byte) : Except Reject (Instr × List Byte) :=
  match takeParams row.cmd row.params bs with
  | .ok rest => .ok (row.instr, rest)
  | .error r => .error r

/-- The first command of a payload (R62). -/
def decodeCommand : List Byte → Except Reject (Instr × List Byte)
  | [] => .error .noBytes
  | cmd :: bs =>
    match commandRows.find? (fun row => row.cmd == cmd) with
    | some row => decodeRow row bs
    | none => .error (.commandByte cmd)

/-- The decoder: what the reader at port `p` takes from the front of `bs`, with the bytes it leaves. -/
def decode (p : Port) (bs : List Byte) : Except Reject (Instr × List Byte) :=
  match p with
  | .host => decodeHost bs
  | .control => decodeControl bs
  | .command => decodeCommand bs

/-! ## The encoder -/

/-- The bytes of a list of code points (R54). -/
def encodeCodePoints : List Nat → List Byte
  | [] => []
  | v :: cps => le32Bytes (BitVec.ofNat 32 v) ++ encodeCodePoints cps

/-- The bytes of a well-formed instruction (R52 to R55, R58, R61). -/
def encode : Instr → List Byte
  | .clear => [0x01#8]
  | .setPixel x y on =>
    0x02#8 :: (le32Bytes (BitVec.ofInt 32 x) ++ (le32Bytes (BitVec.ofInt 32 y) ++ [if on then 0x01#8 else 0x00#8]))
  | .drawText x y s =>
    0x03#8 :: (le32Bytes (BitVec.ofInt 32 x) ++ (le32Bytes (BitVec.ofInt 32 y)
      ++ (le32Bytes (BitVec.ofNat 32 s.length) ++ encodeCodePoints s)))
  | .readFb i => 0x04#8 :: le16Bytes (BitVec.ofNat 16 i)
  | .init => [0x05#8]
  | .flush => [0x06#8]
  | .displayOff => [0xAE#8]
  | .setClockDiv => [0xD5#8, 0x80#8]
  | .setMultiplex => [0xA8#8, 0x1F#8]
  | .setDisplayOffset => [0xD3#8, 0x00#8]
  | .setStartLine0 => [0x40#8]
  | .chargePump => [0x8D#8, 0x14#8]
  | .setAddrMode => [0x20#8, 0x00#8]
  | .segRemap => [0xA1#8]
  | .comScanDec => [0xC8#8]
  | .setComPins => [0xDA#8, 0x02#8]
  | .setContrast => [0x81#8, 0x8F#8]
  | .setPrecharge => [0xD9#8, 0xF1#8]
  | .setVcomh => [0xDB#8, 0x40#8]
  | .entireDisplayResume => [0xA4#8]
  | .normalDisplay => [0xA6#8]
  | .displayOn => [0xAF#8]
  | .setColumnRange a b => [0x21#8, a, b]
  | .setPageRange a b => [0x22#8, a, b]
  | .ctrlCommand => [0x00#8]
  | .ctrlData => [0x40#8]

/-- The bytes of a sequence of host operations (R51). -/
def encodeAll : List Instr → List Byte
  | [] => []
  | i :: is => encode i ++ encodeAll is

/-! ## Words of the opcode table -/

/-- `nbits` bits as bytes in wire order. The table numbers a row's bits as one number whose most significant byte is the first
byte ("match/mask are the command's bytes in wire order, first byte most significant"); log 20. -/
def tableWordBytes (nbits w : Nat) : List Byte :=
  (List.range (nbits / 8)).map fun j => BitVec.ofNat 8 (w >>> (8 * (nbits / 8 - 1 - j)))

/-- The bytes of a table word, then zeros for the operand bytes the table gives no bits (13 covers the longest format with
operands of zeros, DRAW_TEXT with no code point). -/
def tableBytes (nbits w : Nat) : List Byte := tableWordBytes nbits w ++ List.replicate 13 0x00#8

/-- The port at which a table word is read and what it decodes to: as a host operation, else as a command, else as a control
byte (log 20). -/
def decodeTable (nbits w : Nat) : Option (Port × Instr) :=
  match decode .host (tableBytes nbits w) with
  | .ok (i, _) => some (.host, i)
  | .error _ =>
    match decode .command (tableBytes nbits w) with
    | .ok (i, _) => some (.command, i)
    | .error _ =>
      match decode .control (tableBytes nbits w) with
      | .ok (i, _) => some (.control, i)
      | .error _ => none

/-- The instruction the decoder reads from a word of the opcode table. -/
def decodeTableWord (nbits w : Nat) : Option Instr := (decodeTable nbits w).map (·.2)

end Sys2Proof
end

