-- ==== Sys2Proof/Machine/State.lean ====
section
/-! DEFINITION. The state of the machine as plain data (10_state.md R12 to R29), the reasons a step can stop, and the state after
construction. -/

namespace Sys2Proof.Machine

/-- A memory: the bytes written since power-on, as address and byte pairs with addresses strictly rising. An address that is not
listed holds its power-on draw (log 7, log 8). -/
abbrev Memory := List Host.Cell

/-- The canonical form: every address below `size`, addresses strictly rising. -/
def Memory.wf (size : Nat) : Memory → Bool
  | [] => true
  | c :: m => decide (c.1 < size) && m.all (fun d => decide (c.1 < d.1)) && Memory.wf size m

/-- Faults. There are none: "No behaviour of the block is `fault` or `stuck`" beyond the two error results, which HOST receives
as results (93_implementation_defined.md part 1, 60_exceptions.md R127). -/
inductive Fault where
  deriving DecidableEq, Repr

/-- Inputs the spec gives no meaning (R137). -/
inductive Refusal where
  /-- Raised by no meaning: an arm of `exec` without one. Safe. -/
  | notModelled (mnemonic : String)
  /-- Raised by the fetch of a host operation or of a byte by PANEL: the bytes decode to nothing (R56, R85, R86). Safe. -/
  | undecodable (r : Reject)
  /-- Raised by READ_FB given an index above 511 (R55, R137). Safe. -/
  | readIndex (i : Nat)
  /-- Raised by DRAW_TEXT, and by SHOW through it, given a value that is no Unicode scalar value (R54, R137). Safe. -/
  | codePoint (v : Nat)
  /-- Raised by SET_COLUMN_RANGE given a window the reference model refuses (R103). Safe. -/
  | columnRange (a b : Byte)
  /-- Raised by SET_PAGE_RANGE given a window the reference model refuses (R104). Safe. -/
  | pageRange (a b : Byte)
  /-- Raised by a display-data byte outside horizontal addressing mode (R105). Safe. -/
  | addressingMode (mode : Byte)
  /-- Raised by PANEL's dispatch given a host operation, which its decoder never gives it. Safe. -/
  | hostOperationAtPanel
  deriving DecidableEq, Repr

/-- The panel errors (R121, R122). -/
inductive PanelError where
  | uninitialized
  | io (k : IoError)
  deriving DecidableEq, Repr

/-- The result of a host operation (R10). -/
inductive OpResult where
  | ok
  | okByte (v : Byte)
  | err (e : PanelError)
  deriving DecidableEq, Repr

/-- BLOCK's sequencer position (R21). -/
inductive Seq where
  | idle
  | initCmd
  | flushCmd
  | flushData (k : Nat)
  deriving DecidableEq, Repr

/-- One entry of the transport log (R22). -/
structure Tx where
  addr : SlaveAddr
  bytes : List Byte
  answer : Answer
  deriving DecidableEq, Repr

/-- The mode a control byte selects for the rest of a transaction (R27, R85). -/
inductive RxMode where
  | command
  | data
  deriving DecidableEq, Repr

/-- PANEL, the reference model of the SSD1306 (R24 to R27). -/
structure Panel where
  /-- `display_on`, R24. -/
  displayOn : Bool
  /-- `clock_div`, R24. -/
  clockDiv : Byte
  /-- `mux`, R24. -/
  mux : Byte
  /-- `display_offset`, R24. -/
  displayOffset : Byte
  /-- `start_line`, R24. -/
  startLine : BitVec 6
  /-- `charge_pump`, R24. -/
  chargePump : Byte
  /-- `addr_mode`, R24. -/
  addrMode : Byte
  /-- `seg_remap`, R24. -/
  segRemap : Bool
  /-- `com_scan_dec`, R24. -/
  comScanDec : Bool
  /-- `com_pins`, R24. -/
  comPins : Byte
  /-- `contrast`, R24. -/
  contrast : Byte
  /-- `precharge`, R24. -/
  precharge : Byte
  /-- `vcomh`, R24. -/
  vcomh : Byte
  /-- `entire_on`, R24. -/
  entireOn : Bool
  /-- `invert`, R24. -/
  invert : Bool
  /-- `GDDRAM`, R25: page `p`, column `c` at address `128*p + c`. -/
  gddram : Memory
  /-- `col_start`, R26. -/
  colStart : BitVec 7
  /-- `col_end`, R26. -/
  colEnd : BitVec 7
  /-- `col_ptr`, R26. -/
  colPtr : BitVec 7
  /-- `page_start`, R26. -/
  pageStart : BitVec 3
  /-- `page_end`, R26. -/
  pageEnd : BitVec 3
  /-- `page_ptr`, R26. -/
  pagePtr : BitVec 3
  /-- The mode of the transaction being received; none before its control byte (R27). -/
  mode : Option RxMode
  /-- The bytes of the transaction received and not yet acted on (R27). -/
  rx : List Byte
  /-- The refusal mark, kept for the whole run (R137; log 14). -/
  refused : Option Refusal
  /-- The model's own field: how many free bytes PANEL has drawn (log 12). -/
  draws : Nat
  deriving DecidableEq, Repr

/-- The whole machine. -/
structure State where
  /-- `FB`, R16. -/
  fb : Memory
  /-- `LATCH`, R17. -/
  latch : Bool
  /-- `SLAVE_ADDR`, R18. -/
  slaveAddr : SlaveAddr
  /-- `SEQ`, R21. -/
  seq : Seq
  /-- `TLOG`, R22, oldest first. -/
  tlog : List Tx
  /-- The results returned to HOST, R3, oldest first (log 19). -/
  results : List OpResult
  /-- PANEL, R24 to R27. -/
  panel : Panel
  /-- The configuration, R13; no step writes it (log 2). -/
  params : Config.Params
  /-- The model's own field: the bytes HOST has still to issue (log 17). -/
  hostIn : List Byte
  /-- The model's own field: TRANSPORT's coming replies, next first (log 10). -/
  replies : List Reply
  /-- The model's own field: how many free replies have been used (log 10). -/
  txDraws : Nat
  deriving DecidableEq, Repr

/-- PANEL at power-on: every register and every byte of display RAM a draw (R29; log 8, log 9), no transaction received. -/
def Panel.powerOn : Panel where
  displayOn := (Config.powerOnPanel .displayOn).getLsbD 0
  clockDiv := Config.powerOnPanel .clockDiv
  mux := Config.powerOnPanel .mux
  displayOffset := Config.powerOnPanel .displayOffset
  startLine := (Config.powerOnPanel .startLine).setWidth 6
  chargePump := Config.powerOnPanel .chargePump
  addrMode := Config.powerOnPanel .addrMode
  segRemap := (Config.powerOnPanel .segRemap).getLsbD 0
  comScanDec := (Config.powerOnPanel .comScanDec).getLsbD 0
  comPins := Config.powerOnPanel .comPins
  contrast := Config.powerOnPanel .contrast
  precharge := Config.powerOnPanel .precharge
  vcomh := Config.powerOnPanel .vcomh
  entireOn := (Config.powerOnPanel .entireOn).getLsbD 0
  invert := (Config.powerOnPanel .invert).getLsbD 0
  gddram := []
  colStart := (Config.powerOnPanel .colStart).setWidth 7
  colEnd := (Config.powerOnPanel .colEnd).setWidth 7
  colPtr := (Config.powerOnPanel .colPtr).setWidth 7
  pageStart := (Config.powerOnPanel .pageStart).setWidth 3
  pageEnd := (Config.powerOnPanel .pageEnd).setWidth 3
  pagePtr := (Config.powerOnPanel .pagePtr).setWidth 3
  mode := none
  rx := []
  refused := none
  draws := 0

/-- Construction, the block's only reset (R28, R138), with the slave address as its argument. It makes no transaction. -/
def State.construct (addr : SlaveAddr) : State where
  fb := []
  latch := false
  slaveAddr := addr
  seq := .idle
  tlog := []
  results := []
  panel := Panel.powerOn
  params := Config.specParams
  hostIn := []
  replies := []
  txDraws := 0

/-- The machine right after reset: constructed with the default slave address 0x3C (R18, R28). -/
def State.reset : State := State.construct 0x3C#7

end Sys2Proof.Machine
end

