-- ==== Sys2Proof/Machine/Ops.lean ====
section
/-! DEFINITION. The named operations over memory and state that the meanings are written in: one-byte memory accesses
(20_memory.md R37), results and errors (60_exceptions.md R122, R127), TRANSPORT's next reply (40_transport.md R68, R69). -/

namespace Sys2Proof.Machine

/-! ## Memory -/

/-- What has been written at address `a`, if anything. -/
def Memory.find : Memory → Nat → Option Byte
  | [], _ => none
  | c :: m, a => if a = c.1 then some c.2 else Memory.find m a

/-- Write byte `v` at address `a`, keeping the addresses rising. -/
def Memory.put : Memory → Nat → Byte → Memory
  | [], a, v => [(a, v)]
  | c :: m, a, v =>
    if a < c.1 then (a, v) :: c :: m
    else if a = c.1 then (a, v) :: m
    else c :: Memory.put m a v

/-- `FB[i]` (R9, R37): the byte last written, or the power-on draw (R28). -/
def fbRead (m : Memory) (i : Nat) : Byte := (Memory.find m i).getD (Config.powerOnFb i)

/-- `FB[i] <- v` (R9, R37). -/
def fbWrite (m : Memory) (i : Nat) (v : Byte) : Memory := Memory.put m i v

/-- The address of `GDDRAM[p][c]` in the memory that holds it (R25). -/
def gddramAddr (page col : Nat) : Nat := 128 * page + col

/-- `GDDRAM[p][c]` (R25): the byte last written, or the power-on draw (R29). -/
def gddramRead (m : Memory) (page col : Nat) : Byte :=
  (Memory.find m (gddramAddr page col)).getD (Config.powerOnGddram (gddramAddr page col))

/-- `GDDRAM[p][c] <- v` (R25, R105). -/
def gddramWrite (m : Memory) (page col : Nat) (v : Byte) : Memory := Memory.put m (gddramAddr page col) v

/-! ## State updates -/

/-- `FB` as a whole. -/
def State.setFb (s : State) (m : Memory) : State := { s with fb := m }

/-- `LATCH <- v` (R9). -/
def State.setLatch (s : State) (v : Bool) : State := { s with latch := v }

/-- `SEQ <- q` (R21). -/
def State.setSeq (s : State) (q : Seq) : State := { s with seq := q }

/-- Apply `f` to PANEL. -/
def State.onPanel (s : State) (f : Panel → Panel) : State := { s with panel := f s.panel }

/-- Append one transaction to `TLOG` (R22). -/
def State.logTx (s : State) (t : Tx) : State := { s with tlog := s.tlog ++ [t] }

/-- The bytes HOST has still to issue. -/
def State.setHostIn (s : State) (bs : List Byte) : State := { s with hostIn := bs }

/-! ## Results and errors -/

/-- `return r`: end the operation and deliver its result to HOST (R9). -/
def State.ret (s : State) (r : OpResult) : State := { s with results := s.results ++ [r] }

/-- `raise e`: the operation stops here with `Err(e)` and BLOCK is Idle (R127, R128). Nothing is saved, no mode changes and control
goes to no vector; there is no return from it but the result itself (R129). -/
def State.raise (s : State) (e : PanelError) : State := (s.setSeq .idle).ret (.err e)

/-! ## TRANSPORT's replies -/

/-- The `j`-th coming reply: a listed one, else a free value (R68). -/
def State.upcoming (s : State) (j : Nat) : Reply :=
  (s.replies[j]?).getD (Config.freeReply (s.txDraws + (j - s.replies.length)))

/-- The state after TRANSPORT's next reply has been used. -/
def State.dropReply (s : State) : State :=
  match s.replies with
  | _ :: rs => { s with replies := rs }
  | [] => { s with txDraws := s.txDraws + 1 }

/-- The bytes of a transaction that reach PANEL: all of them after `Ok`, any leading part after an error (R69). -/
def deliveredBytes (r : Reply) (bytes : List Byte) : List Byte :=
  match r.answer with
  | .ok => bytes
  | .err _ => bytes.take r.delivered

end Sys2Proof.Machine
end

