-- ==== Sys2Proof/Machine/Flags.lean ====
section
/-! DEFINITION. BLOCK has no flags or condition codes (10_state.md R23). This file holds its one status bit's test and the numeric
codes of the results (60_exceptions.md R122). -/

namespace Sys2Proof.Machine

/-- The test FLUSH makes of `LATCH` (R17, R80). -/
def State.ready (s : State) : Bool := s.latch

/-- The code of a transport error inside `Io` (R122). -/
def IoErrorCode (k : IoError) : Nat :=
  match k with
  | .nack => 2
  | .busError => 3
  | .timeout => 4

/-- The numeric code of a result (R122). -/
def OpResult.code (r : OpResult) : Nat :=
  match r with
  | .ok => 0
  | .okByte _ => 0
  | .err .uninitialized => 1
  | .err (.io k) => IoErrorCode k

end Sys2Proof.Machine
end

