-- ==== Sys2Proof/Machine/Panel.lean ====
section
/-! DEFINITION. The panel reference model: the SSD1306 commands, the control bytes, display data (42_ssd1306_commands.md R84 to
R105). The effects are general knowledge in the spec itself (log 27). -/

namespace Sys2Proof.Machine

/-! ## Commands -/

/-- DISPLAY_OFF (R87). -/
def execDisplayOff (s : State) : Host.Outcome State Fault Refusal := .next (s.onPanel fun p => { p with displayOn := false })

/-- SET_CLOCK_DIV (R88). -/
def execSetClockDiv (s : State) : Host.Outcome State Fault Refusal := .next (s.onPanel fun p => { p with clockDiv := 0x80#8 })

/-- SET_MULTIPLEX (R89). -/
def execSetMultiplex (s : State) : Host.Outcome State Fault Refusal := .next (s.onPanel fun p => { p with mux := 0x1F#8 })

/-- SET_DISPLAY_OFFSET (R90). -/
def execSetDisplayOffset (s : State) : Host.Outcome State Fault Refusal :=
  .next (s.onPanel fun p => { p with displayOffset := 0x00#8 })

/-- SET_START_LINE_0 (R91). -/
def execSetStartLine0 (s : State) : Host.Outcome State Fault Refusal := .next (s.onPanel fun p => { p with startLine := 0#6 })

/-- CHARGE_PUMP (R92). -/
def execChargePump (s : State) : Host.Outcome State Fault Refusal := .next (s.onPanel fun p => { p with chargePump := 0x14#8 })

/-- SET_ADDR_MODE (R93). -/
def execSetAddrMode (s : State) : Host.Outcome State Fault Refusal := .next (s.onPanel fun p => { p with addrMode := 0x00#8 })

/-- SEG_REMAP (R94). -/
def execSegRemap (s : State) : Host.Outcome State Fault Refusal := .next (s.onPanel fun p => { p with segRemap := true })

/-- COM_SCAN_DEC (R95). -/
def execComScanDec (s : State) : Host.Outcome State Fault Refusal := .next (s.onPanel fun p => { p with comScanDec := true })

/-- SET_COM_PINS (R96). -/
def execSetComPins (s : State) : Host.Outcome State Fault Refusal := .next (s.onPanel fun p => { p with comPins := 0x02#8 })

/-- SET_CONTRAST (R97). -/
def execSetContrast (s : State) : Host.Outcome State Fault Refusal := .next (s.onPanel fun p => { p with contrast := 0x8F#8 })

/-- SET_PRECHARGE (R98). -/
def execSetPrecharge (s : State) : Host.Outcome State Fault Refusal := .next (s.onPanel fun p => { p with precharge := 0xF1#8 })

/-- SET_VCOMH (R99). -/
def execSetVcomh (s : State) : Host.Outcome State Fault Refusal := .next (s.onPanel fun p => { p with vcomh := 0x40#8 })

/-- ENTIRE_DISPLAY_RESUME (R100). -/
def execEntireDisplayResume (s : State) : Host.Outcome State Fault Refusal :=
  .next (s.onPanel fun p => { p with entireOn := false })

/-- NORMAL_DISPLAY (R101). -/
def execNormalDisplay (s : State) : Host.Outcome State Fault Refusal := .next (s.onPanel fun p => { p with invert := false })

/-- DISPLAY_ON (R102). -/
def execDisplayOn (s : State) : Host.Outcome State Fault Refusal := .next (s.onPanel fun p => { p with displayOn := true })

/-- The window and the pointer of the columns (R103). -/
def Panel.setColumns (a b : Byte) (p : Panel) : Panel :=
  { p with colStart := a.setWidth 7, colEnd := b.setWidth 7, colPtr := a.setWidth 7 }

/-- The window and the pointer of the pages (R104). -/
def Panel.setPages (a b : Byte) (p : Panel) : Panel :=
  { p with pageStart := a.setWidth 3, pageEnd := b.setWidth 3, pagePtr := a.setWidth 3 }

/-- SET_COLUMN_RANGE `a b` (R103; log 16). -/
def execSetColumnRange (a b : Byte) (s : State) : Host.Outcome State Fault Refusal :=
  if columnRangeOk a b then .next (s.onPanel (Panel.setColumns a b)) else .refused (.columnRange a b)

/-- SET_PAGE_RANGE `a b` (R104; log 16). -/
def execSetPageRange (a b : Byte) (s : State) : Host.Outcome State Fault Refusal :=
  if pageRangeOk a b then .next (s.onPanel (Panel.setPages a b)) else .refused (.pageRange a b)

/-! ## Control bytes -/

/-- CTRL_COMMAND: command mode for the rest of the transaction (R85). -/
def execCtrlCommand (s : State) : Host.Outcome State Fault Refusal := .next (s.onPanel fun p => { p with mode := some .command })

/-- CTRL_DATA: data mode for the rest of the transaction (R85). -/
def execCtrlData (s : State) : Host.Outcome State Fault Refusal := .next (s.onPanel fun p => { p with mode := some .data })

/-! ## Display data -/

/-- PANEL's `j`-th coming free byte (log 12, log 13). -/
def Panel.drawn (p : Panel) (j : Nat) : Byte := Config.freeByte (p.draws + j)

/-- `page_ptr` moves on: from `page_end` to `page_start`, else to the next page. Past page 7 without meeting `page_end` R105 gives
no value: a free one (log 13). -/
def Panel.nextPage (p : Panel) : Panel :=
  if p.pagePtr = p.pageEnd then { p with pagePtr := p.pageStart }
  else if p.pagePtr = 7#3 then { p with pagePtr := (p.drawn 0).setWidth 3, draws := p.draws + 1 }
  else { p with pagePtr := p.pagePtr + 1#3 }

/-- The pointer moves on along the window, column first (R105). Past column 127 without meeting `col_end` R105 gives no value: a
free one (log 13). -/
def Panel.advance (p : Panel) : Panel :=
  if p.colPtr = p.colEnd then Panel.nextPage { p with colPtr := p.colStart }
  else if p.colPtr = 127#7 then { p with colPtr := (p.drawn 0).setWidth 7, draws := p.draws + 1 }
  else { p with colPtr := p.colPtr + 1#7 }

/-- The write of a display-data byte at the pointer (R105). -/
def Panel.store (d : Byte) (p : Panel) : Panel := { p with gddram := gddramWrite p.gddram p.pagePtr.toNat p.colPtr.toNat d }

/-- `PanelData(d)` (R105). -/
def panelData (d : Byte) (s : State) : Host.Outcome State Fault Refusal :=
  if s.panel.addrMode = 0x00#8 then .next (s.onPanel fun p => (p.store d).advance)
  else .refused (.addressingMode s.panel.addrMode)

/-! ## A transaction -/

/-- The register that a command cut short would have written becomes a draw (R84; log 12). -/
def Panel.drawRegister (cmd : Byte) (p : Panel) : Panel :=
  if cmd = 0xD5#8 then { p with clockDiv := p.drawn 0, draws := p.draws + 1 }
  else if cmd = 0xA8#8 then { p with mux := p.drawn 0, draws := p.draws + 1 }
  else if cmd = 0xD3#8 then { p with displayOffset := p.drawn 0, draws := p.draws + 1 }
  else if cmd = 0x8D#8 then { p with chargePump := p.drawn 0, draws := p.draws + 1 }
  else if cmd = 0x20#8 then { p with addrMode := p.drawn 0, draws := p.draws + 1 }
  else if cmd = 0xDA#8 then { p with comPins := p.drawn 0, draws := p.draws + 1 }
  else if cmd = 0x81#8 then { p with contrast := p.drawn 0, draws := p.draws + 1 }
  else if cmd = 0xD9#8 then { p with precharge := p.drawn 0, draws := p.draws + 1 }
  else if cmd = 0xDB#8 then { p with vcomh := p.drawn 0, draws := p.draws + 1 }
  else if cmd = 0x21#8 then
    { p with
      colStart := (p.drawn 0).setWidth 7, colEnd := (p.drawn 1).setWidth 7, colPtr := (p.drawn 2).setWidth 7, draws := p.draws + 3 }
  else if cmd = 0x22#8 then
    { p with
      pageStart := (p.drawn 0).setWidth 3, pageEnd := (p.drawn 1).setWidth 3, pagePtr := (p.drawn 2).setWidth 3,
      draws := p.draws + 3 }
  else p

/-- What PANEL does with a decoded control byte or command. Its decoder gives it no host operation. -/
def panelExec (i : Instr) (s : State) : Host.Outcome State Fault Refusal :=
  match i with
  | .displayOff => execDisplayOff s
  | .setClockDiv => execSetClockDiv s
  | .setMultiplex => execSetMultiplex s
  | .setDisplayOffset => execSetDisplayOffset s
  | .setStartLine0 => execSetStartLine0 s
  | .chargePump => execChargePump s
  | .setAddrMode => execSetAddrMode s
  | .segRemap => execSegRemap s
  | .comScanDec => execComScanDec s
  | .setComPins => execSetComPins s
  | .setContrast => execSetContrast s
  | .setPrecharge => execSetPrecharge s
  | .setVcomh => execSetVcomh s
  | .entireDisplayResume => execEntireDisplayResume s
  | .normalDisplay => execNormalDisplay s
  | .displayOn => execDisplayOn s
  | .setColumnRange a b => execSetColumnRange a b s
  | .setPageRange a b => execSetPageRange a b s
  | .ctrlCommand => execCtrlCommand s
  | .ctrlData => execCtrlData s
  | .clear | .setPixel _ _ _ | .drawText _ _ _ | .readFb _ | .init | .flush => .refused .hostOperationAtPanel

/-- The bytes PANEL has still to act on. -/
def State.setRx (s : State) (bs : List Byte) : State := s.onPanel fun p => { p with rx := bs }

/-- PANEL acts on the control byte at the front of `bs` (R85). -/
def panelControl (bs : List Byte) (s : State) : Host.Outcome State Fault Refusal :=
  match decode .control bs with
  | .ok (i, rest) => panelExec i (s.setRx rest)
  | .error r => .refused (.undecodable r)

/-- PANEL acts on the command at the front of `bs` (R62, R84). -/
def panelCommand (bs : List Byte) (s : State) : Host.Outcome State Fault Refusal :=
  match decode .command bs with
  | .ok (i, rest) => panelExec i (s.setRx rest)
  | .error (.partialCommand cmd) => .next ((s.onPanel (Panel.drawRegister cmd)).setRx [])
  | .error r => .refused (.undecodable r)

/-- PANEL acts on the next item of the transaction it is receiving: a control byte, a command or a data byte (R84). Once an input
has been refused it acts on nothing more (R137). -/
def panelStep (s : State) : Host.Outcome State Fault Refusal :=
  match s.panel.refused with
  | some r => .refused r
  | none =>
    match s.panel.rx with
    | [] => .next s
    | b :: bs =>
      match s.panel.mode with
      | none => panelControl (b :: bs) s
      | some .command => panelCommand (b :: bs) s
      | some .data => panelData b (s.setRx bs)

/-- The refusal mark, "for the whole run" (R137). -/
def State.markRefused (s : State) (r : Refusal) : State := s.onPanel fun p => { p with refused := some r, rx := [] }

/-- PANEL acts on all it has received, in byte order (R84). Every item takes a byte, so `n` is the number of bytes. -/
def panelRun : Nat → State → State
  | 0, s => s
  | n + 1, s =>
    match s.panel.rx with
    | [] => s
    | _ :: _ =>
      match panelStep s with
      | .next t => panelRun n t
      | .refused r => s.markRefused r
      | .fault _ => s

/-- PANEL receives `bytes` as one transaction: its mode starts afresh (R27), then it acts on every byte (R84). A refused PANEL
receives nothing more (log 14). -/
def panelReceive (bytes : List Byte) (s : State) : State :=
  match s.panel.refused with
  | some _ => s
  | none => panelRun bytes.length (s.onPanel fun p => { p with mode := none, rx := bytes })

end Sys2Proof.Machine
end

