-- ==== Sys2Proof/Machine/Driver.lean ====
section
/-! DEFINITION. The transport primitive (40_transport.md R66) and the SSD1306 driver: INIT and FLUSH (41_ssd1306_driver.md R74 to
R80), whole and one transaction at a time (10_state.md R21). -/

namespace Sys2Proof.Machine

/-- `INIT_SEQ` (R77). -/
def initSeq : List Byte :=
  [0xAE#8, 0xD5#8, 0x80#8, 0xA8#8, 0x1F#8, 0xD3#8, 0x00#8, 0x40#8, 0x8D#8, 0x14#8, 0x20#8, 0x00#8,
   0xA1#8, 0xC8#8, 0xDA#8, 0x02#8, 0x81#8, 0x8F#8, 0xD9#8, 0xF1#8, 0xDB#8, 0x40#8, 0xA4#8, 0xA6#8, 0xAF#8]

/-- `FLUSH_CMD` (R78). -/
def flushSeq : List Byte := [0x21#8, 0x00#8, 0x7F#8, 0x22#8, 0x00#8, 0x03#8]

/-- The init transaction (R79). -/
def initBytes : List Byte := 0x00#8 :: initSeq

/-- The flush command transaction (R80). -/
def flushBytes : List Byte := 0x00#8 :: flushSeq

/-- `NCH = ceil(512 / DATA_CHUNK)` (R76). -/
def chunkCount (p : Config.Params) : Nat := (512 + p.dataChunk - 1) / p.dataChunk

/-- The framebuffer bytes `FB[lo .. hi)`. -/
def fbSlice (m : Memory) (lo hi : Nat) : List Byte := (List.range (hi - lo)).map fun j => fbRead m (lo + j)

/-- The payload of data transaction `k` (R76). -/
def chunkBytes (p : Config.Params) (m : Memory) (k : Nat) : List Byte :=
  fbSlice m (k * p.dataChunk) (min 512 (k * p.dataChunk + p.dataChunk))

/-- Data transaction `k` (R75, R80). -/
def dataBytes (p : Config.Params) (m : Memory) (k : Nat) : List Byte := 0x40#8 :: chunkBytes p m k

/-- The answer `TxWrite` gives in this state (R67). -/
def txAnswer (s : State) : Answer := (s.upcoming 0).answer

/-- The state after `TxWrite(SLAVE_ADDR, bytes)` (R66): the reply is used, `TLOG` has one more entry, PANEL has received what was
delivered (R69). -/
def txWrite (s : State) (bytes : List Byte) : State :=
  panelReceive (deliveredBytes (s.upcoming 0) bytes) (s.dropReply.logTx ⟨s.slaveAddr, bytes, txAnswer s⟩)

/-- INIT's end, given the answer of its transaction (R79). -/
def initEnd (a : Answer) (s : State) : State :=
  match a with
  | .ok => ((s.setSeq .idle).setLatch true).ret .ok
  | .err k => s.raise (.io k)

/-- INIT (R79). -/
def initOp (s : State) : State := initEnd (txAnswer s) (txWrite (s.setSeq .initCmd) initBytes)

/-- The data loop of FLUSH over the transactions still to make (R80). -/
def flushChunks : List Nat → State → State
  | [], s => (s.setSeq .idle).ret .ok
  | k :: ks, s =>
    match txAnswer s with
    | .ok => flushChunks ks (txWrite (s.setSeq (.flushData k)) (dataBytes s.params s.fb k))
    | .err e => (txWrite (s.setSeq (.flushData k)) (dataBytes s.params s.fb k)).raise (.io e)

/-- FLUSH after the latch test (R80). -/
def flushFrame (s : State) : State :=
  match txAnswer s with
  | .ok => flushChunks (List.range (chunkCount s.params)) (txWrite (s.setSeq .flushCmd) flushBytes)
  | .err e => (txWrite (s.setSeq .flushCmd) flushBytes).raise (.io e)

/-- FLUSH (R80). -/
def flushOp (s : State) : State := if s.ready then flushFrame s else s.raise .uninitialized

/-- INIT (R79). -/
def execInit (s : State) : Host.Outcome State Fault Refusal := .next (initOp s)

/-- FLUSH (R80). -/
def execFlush (s : State) : Host.Outcome State Fault Refusal := .next (flushOp s)

/-! ## One transaction at a time (R21, R38) -/

/-- After data transaction `k` was answered `Ok`, or, for `k = 0`, before any: the next one, or the end of FLUSH. -/
def flushNext (k : Nat) (s : State) : State :=
  if k < chunkCount s.params then s.setSeq (.flushData k) else (s.setSeq .idle).ret .ok

/-- BLOCK in the middle of INIT or FLUSH makes the transaction its sequencer stands at, and moves on (R21). -/
def seqStep (s : State) : State :=
  match s.seq with
  | .idle => s
  | .initCmd => initEnd (txAnswer s) (txWrite s initBytes)
  | .flushCmd =>
    match txAnswer s with
    | .ok => flushNext 0 (txWrite s flushBytes)
    | .err e => (txWrite s flushBytes).raise (.io e)
  | .flushData k =>
    match txAnswer s with
    | .ok => flushNext (k + 1) (txWrite s (dataBytes s.params s.fb k))
    | .err e => (txWrite s (dataBytes s.params s.fb k)).raise (.io e)

/-- At most `n` transactions, stopping when BLOCK is Idle. -/
def seqRun : Nat → State → State
  | 0, s => s
  | n + 1, s => if s.seq = .idle then s else seqRun n (seqStep s)

end Sys2Proof.Machine
end

