-- ==== Sys2Proof/Machine/Operands.lean ====
section
/-! DEFINITION. Pixel addressing (20_memory.md R30, R31), the pixel write (43_raster.md R107) and the font lookup (R42, R108). -/

namespace Sys2Proof.Machine

/-- `InBounds(x, y)` (R30). -/
def inBounds (x y : Int) : Bool := decide (0 ≤ x) && decide (x < 128) && decide (0 ≤ y) && decide (y < 32)

/-- `ByteIndex(x, y)`, meant only in bounds (R31). -/
def byteIndex (x y : Int) : Nat := (x + y / 8 * 128).toNat

/-- `BitIndex(x, y)`, meant only in bounds (R31). -/
def bitIndex (y : Int) : Nat := (y % 8).toNat

/-- `(v AND NOT (1 << b)) OR (on << b)` (R107). -/
def withBit (v : Byte) (b : Nat) (on : Bool) : Byte :=
  (v &&& ~~~(1#8 <<< b)) ||| ((if on then 1#8 else 0#8) <<< b)

/-- `Pixel(x, y)`, meant only in bounds (R31). -/
def pixel (m : Memory) (x y : Int) : Bool := (fbRead m (byteIndex x y)).getLsbD (bitIndex y)

/-- `PutPixel(x, y, v)`: clipped out of bounds (R107). -/
def putPixel (m : Memory) (x y : Int) (v : Bool) : Memory :=
  if inBounds x y then fbWrite m (byteIndex x y) (withBit (fbRead m (byteIndex x y)) (bitIndex y) v) else m

/-- `FONTROW(g, r)` (R42). A table too short for the index reads 0; a legal one never is (log 25). -/
def fontRow (p : Config.Params) (g r : Nat) : Byte := (p.font[13 * g + r]?).getD 0#8

/-- The first value of a text that is no Unicode scalar value, if there is one (R54, R137). -/
def badCodePoint (cps : List Nat) : Option Nat := cps.find? fun v => !isScalar v

/-- `cp` has a glyph (R108). -/
def hasGlyph (cp : Nat) : Bool := decide (Config.cpFirst ≤ cp) && decide (cp ≤ Config.cpLast)

/-- `GlyphPixel(cp, c, r)`: the font's bit, most significant leftmost; 0 for an unknown code point (R108). -/
def glyphPixel (p : Config.Params) (cp c r : Nat) : Bool :=
  if hasGlyph cp then (fontRow p (cp - Config.cpFirst) r).getLsbD (7 - c) else false

end Sys2Proof.Machine
end

