-- ==== Sys2Proof/Machine/Raster.lean ====
section
/-! DEFINITION. The rasterizer operations CLEAR, SET_PIXEL, READ_FB and DRAW_TEXT (43_raster.md R109 to R113). -/

namespace Sys2Proof.Machine

/-- A framebuffer of 512 zero bytes (R110). -/
@[irreducible] def clearedFb : Memory := (List.range 512).map fun i => (i, 0x00#8)

/-- One place of `BlitGlyph`'s loops: glyph row `r`, column `c` (R109). -/
def blitPixel (p : Config.Params) (x0 y : Int) (cp : Nat) (m : Memory) (r c : Nat) : Memory :=
  if glyphPixel p cp c r then putPixel m (x0 + c) (y - 12 + r) true
  else
    match p.blitMode with
    | .overwrite => putPixel m (x0 + c) (y - 12 + r) false
    | .transparent => m

/-- One row of `BlitGlyph` (R109). -/
def blitRow (p : Config.Params) (x0 y : Int) (cp : Nat) (m : Memory) (r : Nat) : Memory :=
  (List.range 8).foldl (fun m c => blitPixel p x0 y cp m r c) m

/-- `BlitGlyph(x0, y, cp)`: left edge at column `x0`, baseline on row `y` (R109). -/
def blitGlyph (p : Config.Params) (m : Memory) (x0 y : Int) (cp : Nat) : Memory :=
  (List.range 13).foldl (fun m r => blitRow p x0 y cp m r) m

/-- The loop of DRAW_TEXT, "x advancing by 8 per character" (R113). -/
def drawText (p : Config.Params) (m : Memory) (x y : Int) : List Nat → Memory
  | [] => m
  | cp :: cps => drawText p (blitGlyph p m x y cp) (x + 8) y cps

/-- CLEAR (R110). -/
def execClear (s : State) : Host.Outcome State Fault Refusal := .next ((s.setFb clearedFb).ret .ok)

/-- SET_PIXEL `x, y, on` (R111). -/
def execSetPixel (x y : Int) (on : Bool) (s : State) : Host.Outcome State Fault Refusal :=
  .next ((s.setFb (putPixel s.fb x y on)).ret .ok)

/-- DRAW_TEXT `x, y, s` (R113); a value that is no Unicode scalar value has no meaning (R137, vector R-26). -/
def execDrawText (x y : Int) (cps : List Nat) (s : State) : Host.Outcome State Fault Refusal :=
  match badCodePoint cps with
  | none => .next ((s.setFb (drawText s.params s.fb x y cps)).ret .ok)
  | some v => .refused (.codePoint v)

/-- READ_FB `i` (R112); an index above 511 has no meaning (R137, log 21). -/
def execReadFb (i : Nat) (s : State) : Host.Outcome State Fault Refusal :=
  if i ≤ 511 then .next (s.ret (.okByte (fbRead s.fb i))) else .refused (.readIndex i)

end Sys2Proof.Machine
end

