-- ==== Sys2Proof/Machine/Dispatch.lean ====
section
/-! DEFINITION. The dispatch: one arm per constructor of Instr, each one direct call of its meaning. -/

namespace Sys2Proof.Machine

/-- The meaning of each instruction. -/
def exec (i : Instr) (s : State) : Host.Outcome State Fault Refusal :=
  match i with
  | .clear => Sys2Proof.Machine.execClear s
  | .setPixel x y on => Sys2Proof.Machine.execSetPixel x y on s
  | .drawText x y cps => Sys2Proof.Machine.execDrawText x y cps s
  | .readFb k => Sys2Proof.Machine.execReadFb k s
  | .init => Sys2Proof.Machine.execInit s
  | .flush => Sys2Proof.Machine.execFlush s
  | .displayOff => Sys2Proof.Machine.execDisplayOff s
  | .setClockDiv => Sys2Proof.Machine.execSetClockDiv s
  | .setMultiplex => Sys2Proof.Machine.execSetMultiplex s
  | .setDisplayOffset => Sys2Proof.Machine.execSetDisplayOffset s
  | .setStartLine0 => Sys2Proof.Machine.execSetStartLine0 s
  | .chargePump => Sys2Proof.Machine.execChargePump s
  | .setAddrMode => Sys2Proof.Machine.execSetAddrMode s
  | .segRemap => Sys2Proof.Machine.execSegRemap s
  | .comScanDec => Sys2Proof.Machine.execComScanDec s
  | .setComPins => Sys2Proof.Machine.execSetComPins s
  | .setContrast => Sys2Proof.Machine.execSetContrast s
  | .setPrecharge => Sys2Proof.Machine.execSetPrecharge s
  | .setVcomh => Sys2Proof.Machine.execSetVcomh s
  | .entireDisplayResume => Sys2Proof.Machine.execEntireDisplayResume s
  | .normalDisplay => Sys2Proof.Machine.execNormalDisplay s
  | .displayOn => Sys2Proof.Machine.execDisplayOn s
  | .setColumnRange a b => Sys2Proof.Machine.execSetColumnRange a b s
  | .setPageRange a b => Sys2Proof.Machine.execSetPageRange a b s
  | .ctrlCommand => Sys2Proof.Machine.execCtrlCommand s
  | .ctrlData => Sys2Proof.Machine.execCtrlData s

end Sys2Proof.Machine
end

