-- ==== Sys2Proof/Machine/Fetch.lean ====
section
/-! DEFINITION. Fetching the next host operation, and placing an instruction where the next step fetches (log 20). -/

namespace Sys2Proof.Machine

/-- BLOCK, Idle, takes HOST's next operation and executes it to its end (R44, R51). While HOST has issued nothing BLOCK waits
(R139; log 18). Bytes that are no operation are refused (R56, R137). -/
def hostStep (s : State) : Host.Outcome State Fault Refusal :=
  match s.hostIn with
  | [] => .next s
  | b :: bs =>
    match decode .host (b :: bs) with
    | .ok (i, rest) => exec i (s.setHostIn rest)
    | .error r => .refused (.undecodable r)

/-- The bytes of a table word placed at the port where they are read: in HOST's queue with BLOCK Idle and nothing left for PANEL to
do, or in PANEL's, at the start of a transaction for a control byte and in command mode for a command. -/
def placeWord (s : State) (nbits w : Nat) : State :=
  match decodeTable nbits w with
  | some (.command, _) =>
    s.onPanel fun p => { p with refused := none, mode := some .command, rx := tableBytes nbits w }
  | some (.control, _) => s.onPanel fun p => { p with refused := none, mode := none, rx := tableBytes nbits w }
  | some (.host, _) => ((s.setSeq .idle).setRx []).setHostIn (tableBytes nbits w)
  | none => ((s.setSeq .idle).setRx []).setHostIn (tableBytes nbits w)

end Sys2Proof.Machine
end

