-- ==== Sys2Proof/Machine/Step.lean ====
section
/-! DEFINITION. One step of the machine (20_memory.md R44, R45): PANEL acts on what it has received, else BLOCK goes on with the
operation in progress, else BLOCK takes HOST's next operation (log 1, log 22). -/

namespace Sys2Proof.Machine

/-- One step. -/
def step (s : State) : Host.Outcome State Fault Refusal :=
  match s.panel.rx with
  | _ :: _ => panelStep s
  | [] =>
    match s.seq with
    | .idle => hostStep s
    | .initCmd | .flushCmd | .flushData _ => .next (seqStep s)

/-- `s` with an instruction of the opcode table stored where the next step fetches it (log 20). -/
def State.withFetchWord (s : State) (nbits w : Nat) : State := placeWord s nbits w

end Sys2Proof.Machine
end

