-- ==== Sys2Proof/Machine/Facade.lean ====
section
/-! DEFINITION. The facade's pseudo-operations SHOW and FACADE_CLEAR (44_facade.md R117, R119), which have no opcode and mean
exactly the host operations they expand to (30_encoding.md R65; log 26). -/

namespace Sys2Proof.Machine

/-- Host operations one after the other, each to its end before the next (R44). -/
def runOps : List Instr → State → Host.Outcome State Fault Refusal
  | [], s => .next s
  | i :: is, s =>
    match exec i s with
    | .next t => runOps is t
    | .fault r => .fault r
    | .refused r => .refused r

/-- The expansion of SHOW `a, b` (R117). -/
def showOps (a b : List Nat) : List Instr := [.clear, .drawText 0 15 a, .drawText 0 30 b, .flush]

/-- The expansion of FACADE_CLEAR (R119). -/
def facadeClearOps : List Instr := [.clear, .flush]

/-- SHOW's result is that of its FLUSH, the last operation (R117). -/
def showResult (t : State) : Option OpResult := t.results.getLast?

/-- FACADE_CLEAR discards its FLUSH's result and returns `Ok` (R119). -/
def facadeClearResult (_ : State) : OpResult := .ok

/-- SHOW: the state it leaves, and its result. -/
def facadeShow (a b : List Nat) (s : State) : Host.Outcome (State × Option OpResult) Fault Refusal :=
  match runOps (showOps a b) s with
  | .next t => .next (t, showResult t)
  | .fault r => .fault r
  | .refused r => .refused r

/-- FACADE_CLEAR: the state it leaves, and its result. -/
def facadeClear (s : State) : Host.Outcome (State × OpResult) Fault Refusal :=
  match runOps facadeClearOps s with
  | .next t => .next (t, facadeClearResult t)
  | .fault r => .fault r
  | .refused r => .refused r

end Sys2Proof.Machine
end

