-- ==== Sys2Proof/Safety.lean ====
section
/-! DEFINITION. The terms claims are stated in: what a legal transaction is (30_encoding.md R58, 41_ssd1306_driver.md R74 to R76),
the invariant of the machine, the text a DRAW_TEXT should leave, and the relation of two states that differ in PANEL only. -/

namespace Sys2Proof.Machine

/-- A transaction the block may make: to the slave address, a control byte first, then the init sequence, the flush command block
or 1 to `DATA_CHUNK` data bytes (R58, R66, R74, R75, R76). -/
def Tx.legal (p : Config.Params) (addr : SlaveAddr) (t : Tx) : Bool :=
  decide (t.addr = addr) &&
    match t.bytes with
    | [] => false
    | c :: payload =>
      (decide (c = 0x00#8) && (decide (payload = initSeq) || decide (payload = flushSeq))) ||
        (decide (c = 0x40#8) && decide (1 ≤ payload.length) && decide (payload.length ≤ p.dataChunk))

/-- An init transaction that was answered `Ok`: what sets the latch (R17, R79). -/
def Tx.initOk (t : Tx) : Bool := decide (t.bytes = initBytes) && decide (t.answer = .ok)

/-- What every step keeps: both memories in canonical form inside their address spaces (R16, R25), a legal configuration (R19,
R42), every logged transaction legal, the latch set exactly when some INIT has succeeded (R17), and FLUSH's positions reached
only past the latch test and inside the frame (R21, R80). -/
structure State.Inv (s : State) : Prop where
  fbWf : Memory.wf 512 s.fb = true
  gddramWf : Memory.wf 1024 s.panel.gddram = true
  paramsWf : s.params.wf = true
  tlogLegal : ∀ t ∈ s.tlog, Tx.legal s.params s.slaveAddr t = true
  latchInit : s.latch = s.tlog.any Tx.initOk
  flushCmdReady : s.seq = .flushCmd → s.latch = true
  flushDataReady : ∀ k, s.seq = .flushData k → s.latch = true ∧ k < chunkCount s.params

/-- Pixel (px, py) lies in the cells of `n` characters drawn at baseline (x, y): columns `x` to `x + 8n - 1`, rows `y - 12` to `y`
(R113). -/
def inCells (x y : Int) (n : Nat) (px py : Int) : Bool :=
  decide (x ≤ px) && decide (px < x + 8 * n) && decide (y - 12 ≤ py) && decide (py ≤ y)

/-- What pixel (px, py), in bounds and holding `old`, holds after DRAW_TEXT of `cps` at (x, y): in character `(px - x) / 8`'s cell an
on pixel of the glyph sets it, an off pixel leaves it or, in OPAQUE mode, clears it (R109, R113). -/
def textPixel (p : Config.Params) (x y : Int) (cps : List Nat) (old : Bool) (px py : Int) : Bool :=
  if inCells x y cps.length px py then
    let cp := (cps[((px - x) / 8).toNat]?).getD 0
    glyphPixel p cp ((px - x) % 8).toNat (py - (y - 12)).toNat || (decide (p.blitMode = .transparent) && old)
  else old

/-- The entries FLUSH appends when its first `n` data transactions are answered `Ok` (R80). -/
def flushTxs (s : State) (n : Nat) : List Tx :=
  ⟨s.slaveAddr, flushBytes, .ok⟩ :: (List.range n).map fun k => ⟨s.slaveAddr, dataBytes s.params s.fb k, .ok⟩

/-- What a register holds after the first `n` bytes of a transaction, where the command that writes it stands at byte `pos` with one
parameter after it: as before while the command has not come, a draw when it is cut short, else the parameter (R84; log 12). -/
def cutParameter (n pos : Nat) (old draw new : Byte) : Byte := if n ≤ pos then old else if n = pos + 1 then draw else new

/-- PANEL after the first `n` bytes of the init transaction (R69, R77, R84, R145; log 11, log 12): each register as its command's
place in the 26 bytes says. -/
def Panel.afterInitPart (n : Nat) (p : Panel) : Panel :=
  { p with
    displayOn := if n ≤ 1 then p.displayOn else decide (26 ≤ n)
    clockDiv := cutParameter n 2 p.clockDiv (Config.freeByte p.draws) 0x80#8
    mux := cutParameter n 4 p.mux (Config.freeByte p.draws) 0x1F#8
    displayOffset := cutParameter n 6 p.displayOffset (Config.freeByte p.draws) 0x00#8
    startLine := if n ≤ 8 then p.startLine else 0#6
    chargePump := cutParameter n 9 p.chargePump (Config.freeByte p.draws) 0x14#8
    addrMode := cutParameter n 11 p.addrMode (Config.freeByte p.draws) 0x00#8
    segRemap := if n ≤ 13 then p.segRemap else true
    comScanDec := if n ≤ 14 then p.comScanDec else true
    comPins := cutParameter n 15 p.comPins (Config.freeByte p.draws) 0x02#8
    contrast := cutParameter n 17 p.contrast (Config.freeByte p.draws) 0x8F#8
    precharge := cutParameter n 19 p.precharge (Config.freeByte p.draws) 0xF1#8
    vcomh := cutParameter n 21 p.vcomh (Config.freeByte p.draws) 0x40#8
    entireOn := if n ≤ 23 then p.entireOn else false
    invert := if n ≤ 24 then p.invert else false
    mode := if n = 0 then none else some .command
    rx := []
    draws := if n ∈ [3, 5, 7, 10, 12, 16, 18, 20, 22] then p.draws + 1 else p.draws }

/-- PANEL after the first `n` bytes of the flush command transaction (R69, R78, R84, R103, R104; log 11, log 12). -/
def Panel.afterFlushPart (n : Nat) (p : Panel) : Panel :=
  { p with
    colStart := if n ≤ 1 then p.colStart else if n ≤ 3 then (Config.freeByte p.draws).setWidth 7 else 0#7
    colEnd := if n ≤ 1 then p.colEnd else if n ≤ 3 then (Config.freeByte (p.draws + 1)).setWidth 7 else 127#7
    colPtr := if n ≤ 1 then p.colPtr else if n ≤ 3 then (Config.freeByte (p.draws + 2)).setWidth 7 else 0#7
    pageStart := if n ≤ 4 then p.pageStart else if n ≤ 6 then (Config.freeByte p.draws).setWidth 3 else 0#3
    pageEnd := if n ≤ 4 then p.pageEnd else if n ≤ 6 then (Config.freeByte (p.draws + 1)).setWidth 3 else 3#3
    pagePtr := if n ≤ 4 then p.pagePtr else if n ≤ 6 then (Config.freeByte (p.draws + 2)).setWidth 3 else 0#3
    mode := if n = 0 then none else some .command
    rx := []
    draws := if n ∈ [2, 3, 5, 6] then p.draws + 3 else p.draws }

/-- The bytes of the frame that have reached PANEL when data transaction `k` of a FLUSH is the first to fail, with its first `n` bytes
delivered, the control byte among them (R69, R76, R128; log 11). -/
def bytesShown (p : Config.Params) (k n : Nat) : Nat :=
  k * p.dataChunk + min (n - 1) (min 512 (k * p.dataChunk + p.dataChunk) - k * p.dataChunk)

/-- The state with its PANEL exchanged. -/
def State.withPanel (s : State) (p : Panel) : State := { s with panel := p }

/-- The state an outcome answers with, with its PANEL exchanged; a stop is itself. -/
def withoutPanel (p : Panel) (o : Host.Outcome State Fault Refusal) : Host.Outcome State Fault Refusal :=
  match o with
  | .next t => .next (t.withPanel p)
  | .fault r => .fault r
  | .refused r => .refused r

end Sys2Proof.Machine
end

