-- ==== Sys2Proof/Certificates/Slice0/Obligations.lean ====
section
/-! DEFINITION. The statements for the provers. Each docstring names the rule of spec/ or the log entry it formalises. -/

open Sys2Proof Sys2Proof.Machine

/-! ## Encoding -/

/-- R51 to R56, R58, R60, R61, R63: decoding an encoded well-formed instruction, whatever bytes follow, gives it back and leaves those
bytes (that HOST's bytes are one stream, the rest left for the next operation, is log 17). A range command is well-formed, and has an
encoding, only with the window the block sends (log 16). -/
def Obligations.DecodeReadsBackEncode : Prop :=
  ∀ (i : Instr) (rest : List Byte), i.wf = true → decode i.port (encode i ++ rest) = .ok (i, rest)

/-- R51 to R56, R58, R61, R86: whatever a port accepts is the encoding of the well-formed instruction it reads, so every encoding has
one meaning. -/
def Obligations.DecodeAcceptsOnlyEncodings : Prop :=
  ∀ (p : Port) (bs rest : List Byte) (i : Instr),
    decode p bs = .ok (i, rest) → i.port = p ∧ i.wf = true ∧ bs = encode i ++ rest

/-- R53 to R56, R137: a reserved opcode, a byte string shorter than its format, an `on` byte other than 0 and 1, an index above 511
and a code point that is no Unicode scalar value are refused, each by name. -/
def Obligations.HostPortRefusesBadInput : Prop :=
  (∀ (op : Byte) (bs : List Byte), op = 0x00#8 ∨ 7 ≤ op.toNat → decode .host (op :: bs) = .error (.hostOpcode op)) ∧
  (∀ bs : List Byte, bs.length < 9 → decode .host (0x02#8 :: bs) = .error (.shortOperation 0x02#8)) ∧
  (∀ bs : List Byte, bs.length < 12 → decode .host (0x03#8 :: bs) = .error (.shortOperation 0x03#8)) ∧
  (∀ (xy cps : List Byte) (n : Nat), xy.length = 8 → n < 4294967296 → cps.length < 4 * n →
    decode .host (0x03#8 :: (xy ++ (le32Bytes (BitVec.ofNat 32 n) ++ cps))) = .error (.shortOperation 0x03#8)) ∧
  (∀ bs : List Byte, bs.length < 2 → decode .host (0x04#8 :: bs) = .error (.shortOperation 0x04#8)) ∧
  (∀ (xy rest : List Byte) (b : Byte), xy.length = 8 → 2 ≤ b.toNat →
    decode .host (0x02#8 :: (xy ++ b :: rest)) = .error (.pixelOn b)) ∧
  (∀ (i : Nat) (rest : List Byte), 511 < i → i < 65536 →
    decode .host (0x04#8 :: (le16Bytes (BitVec.ofNat 16 i) ++ rest)) = .error (.readIndex i)) ∧
  (∀ (xy rest : List Byte) (good bad : List Nat) (v : Nat), xy.length = 8 → good.all isScalar = true → isScalar v = false →
    v < 4294967296 → (good ++ v :: bad).length < 4294967296 →
    decode .host (0x03#8 :: (xy ++ (le32Bytes (BitVec.ofNat 32 (good ++ v :: bad).length) ++
      (encodeCodePoints (good ++ v :: bad) ++ rest)))) = .error (.codePoint v))

/-- R63, R85, R86, R137: PANEL's ports refuse every control byte but two, every command byte but the eighteen, and every parameter the
block does not send: any other first parameter, and any other second parameter of the two range commands (log 16). -/
def Obligations.PanelPortsRefuseBadInput : Prop :=
  (∀ (b : Byte) (bs : List Byte), b ≠ 0x00#8 → b ≠ 0x40#8 → decode .control (b :: bs) = .error (.controlByte b)) ∧
  (∀ (b : Byte) (bs : List Byte),
    b ∉ [0xAE#8, 0xD5#8, 0xA8#8, 0xD3#8, 0x40#8, 0x8D#8, 0x20#8, 0xA1#8, 0xC8#8, 0xDA#8, 0x81#8, 0xD9#8, 0xDB#8, 0xA4#8, 0xA6#8,
      0xAF#8, 0x21#8, 0x22#8] →
    decode .command (b :: bs) = .error (.commandByte b)) ∧
  (∀ (c q p : Byte) (bs : List Byte),
    (c, q) ∈ [(0xD5#8, 0x80#8), (0xA8#8, 0x1F#8), (0xD3#8, 0x00#8), (0x8D#8, 0x14#8), (0x20#8, 0x00#8), (0xDA#8, 0x02#8),
      (0x81#8, 0x8F#8), (0xD9#8, 0xF1#8), (0xDB#8, 0x40#8), (0x21#8, 0x00#8), (0x22#8, 0x00#8)] →
    p ≠ q → decode .command (c :: p :: bs) = .error (.parameter c p)) ∧
  (∀ (p : Byte) (bs : List Byte), p ≠ 0x7F#8 → decode .command (0x21#8 :: 0x00#8 :: p :: bs) = .error (.parameter 0x21#8 p)) ∧
  ∀ (p : Byte) (bs : List Byte), p ≠ 0x03#8 → decode .command (0x22#8 :: 0x00#8 :: p :: bs) = .error (.parameter 0x22#8 p)

/-- R52 to R55, R58, R61, with words of 95_test_vectors.md (P2, P4): bytes written out decode to the instruction they stand for. The
last two clauses read words of opcode_table.json, whose byte order, zero fill and order of trial are log 20. -/
def Obligations.WrittenWordsDecode : Prop :=
  decode .host [0x01#8] = .ok (.clear, []) ∧
  decode .host [0x02#8, 0x7F#8, 0#8, 0#8, 0#8, 0x1F#8, 0#8, 0#8, 0#8, 0x01#8] = .ok (.setPixel 127 31 true, []) ∧
  decode .host [0x02#8, 0xFF#8, 0xFF#8, 0xFF#8, 0xFF#8, 0#8, 0#8, 0#8, 0#8, 0x01#8] = .ok (.setPixel (-1) 0 true, []) ∧
  decode .host [0x03#8, 0xFC#8, 0xFF#8, 0xFF#8, 0xFF#8, 5#8, 0#8, 0#8, 0#8, 1#8, 0#8, 0#8, 0#8, 0x41#8, 0#8, 0#8, 0#8] =
    .ok (.drawText (-4) 5 [0x41], []) ∧
  decode .host [0x04#8, 0xFF#8, 0x01#8] = .ok (.readFb 511, []) ∧
  decode .host [0x05#8] = .ok (.init, []) ∧ decode .host [0x06#8] = .ok (.flush, []) ∧
  decode .control [0x00#8] = .ok (.ctrlCommand, []) ∧ decode .control [0x40#8] = .ok (.ctrlData, []) ∧
  decode .command [0x40#8] = .ok (.setStartLine0, []) ∧ decode .command [0xDA#8, 0x02#8] = .ok (.setComPins, []) ∧
  decode .command [0x21#8, 0x00#8, 0x7F#8] = .ok (.setColumnRange 0x00#8 0x7F#8, []) ∧
  decodeTableWord 16 0xD580 = some .setClockDiv ∧ decodeTableWord 24 0x220003 = some (.setPageRange 0x00#8 0x03#8)

/-- R62, R77, R78: the init payload is the sixteen commands in the order of the table, 25 bytes, and the flush command payload is the
two range commands, 6 bytes. -/
def Obligations.PayloadsAreTheirCommands : Prop :=
  encodeAll [.displayOff, .setClockDiv, .setMultiplex, .setDisplayOffset, .setStartLine0, .chargePump, .setAddrMode, .segRemap,
      .comScanDec, .setComPins, .setContrast, .setPrecharge, .setVcomh, .entireDisplayResume, .normalDisplay, .displayOn] =
    initSeq ∧
  initSeq = [0xAE#8, 0xD5#8, 0x80#8, 0xA8#8, 0x1F#8, 0xD3#8, 0x00#8, 0x40#8, 0x8D#8, 0x14#8, 0x20#8, 0x00#8, 0xA1#8, 0xC8#8, 0xDA#8,
      0x02#8, 0x81#8, 0x8F#8, 0xD9#8, 0xF1#8, 0xDB#8, 0x40#8, 0xA4#8, 0xA6#8, 0xAF#8] ∧
  initSeq.length = 25 ∧
  encodeAll [.setColumnRange 0x00#8 0x7F#8, .setPageRange 0x00#8 0x03#8] = flushSeq ∧
  flushSeq = [0x21#8, 0x00#8, 0x7F#8, 0x22#8, 0x00#8, 0x03#8]

/-! ## Steps -/

/-- R44, R51: with BLOCK Idle and PANEL done, a step decodes HOST's next operation, takes its bytes, and is its meaning. -/
def Obligations.StepRunsHostOperation : Prop :=
  ∀ (s : State) (i : Instr) (rest : List Byte),
    s.panel.rx = [] → s.seq = .idle → decode .host s.hostIn = .ok (i, rest) → step s = exec i { s with hostIn := rest }

/-- R62, R84, R85: while PANEL has bytes to act on, a step decodes the next control byte or command, takes its bytes, and is its
meaning. That one step is one item of a transaction given to PANEL directly, and that PANEL acts before an operation in progress, is
the model's choice (log 22). -/
def Obligations.StepRunsPanelInstruction : Prop :=
  ∀ (s : State) (i : Instr) (rest : List Byte), s.panel.refused = none →
    (s.panel.mode = none ∧ decode .control s.panel.rx = .ok (i, rest)) ∨
      (s.panel.mode = some .command ∧ decode .command s.panel.rx = .ok (i, rest)) →
    step s = exec i { s with panel := { s.panel with rx := rest } }

/-- R139: with BLOCK Idle, PANEL done and nothing issued, the machine waits. -/
def Obligations.IdleBlockWaits : Prop :=
  ∀ s : State, s.panel.rx = [] → s.seq = .idle → s.hostIn = [] → step s = .next s

/-- R21, R44: in the middle of an operation a step is its next transaction, whatever HOST has issued. -/
def Obligations.StepGoesOnWithOperation : Prop :=
  ∀ s : State, s.panel.rx = [] → s.seq ≠ .idle → step s = .next (seqStep s)

/-- R56, R137: a step whose host bytes decode to nothing is refused; HOST receives no result for it. -/
def Obligations.StepRefusesUndecodable : Prop :=
  ∀ (s : State) (r : Reject), s.panel.rx = [] → s.seq = .idle → s.hostIn ≠ [] → decode .host s.hostIn = .error r →
    step s = .refused (.undecodable r)

/-! ## Rasterizer -/

/-- R110: CLEAR zeroes all 512 bytes and returns `Ok`; nothing else changes. -/
def Obligations.ClearZeroesFramebuffer : Prop :=
  ∀ s : State, ∃ m : Memory,
    exec .clear s = .next { s with fb := m, results := s.results ++ [.ok] } ∧ ∀ i, i < 512 → fbRead m i = 0x00#8

/-- R107 (and R37, R111): SET_PIXEL in bounds writes bit `y mod 8` of byte `x + (y/8)·128`, leaves the byte's other bits and every
other byte, and returns `Ok`; out of bounds it returns `Ok` and writes nothing. Nothing else changes. -/
def Obligations.SetPixelWritesOneBit : Prop :=
  (∀ (s : State) (x y : Nat) (on : Bool), x < 128 → y < 32 → ∃ m : Memory,
    exec (.setPixel x y on) s = .next { s with fb := m, results := s.results ++ [.ok] } ∧
    (fbRead m (x + y / 8 * 128)).getLsbD (y % 8) = on ∧
    (∀ b, b < 8 → b ≠ y % 8 → (fbRead m (x + y / 8 * 128)).getLsbD b = (fbRead s.fb (x + y / 8 * 128)).getLsbD b) ∧
    ∀ i, i ≠ x + y / 8 * 128 → fbRead m i = fbRead s.fb i) ∧
  ∀ (s : State) (x y : Int) (on : Bool), x < 0 ∨ 128 ≤ x ∨ y < 0 ∨ 32 ≤ y →
    exec (.setPixel x y on) s = .next { s with results := s.results ++ [.ok] }

/-- R112: READ_FB returns the byte and changes nothing else. -/
def Obligations.ReadFbReturnsByte : Prop :=
  ∀ (s : State) (i : Nat), i ≤ 511 →
    exec (.readFb i) s = .next { s with results := s.results ++ [.okByte (fbRead s.fb i)] }

/-- R55, R137: an index above 511 has no meaning. -/
def Obligations.ReadFbRefusesIndex : Prop :=
  ∀ (s : State) (i : Nat), 511 < i → exec (.readFb i) s = .refused (.readIndex i)

/-- R37 with R111 and R112: SET_PIXEL of an in-bounds pixel, then READ_FB of its byte, returns the byte with that bit set and no other
bit changed. -/
def Obligations.SetPixelThenReadFb : Prop :=
  ∀ (s : State) (x y : Nat), x < 128 → y < 32 → ∃ (t : State) (v : Byte),
    runOps [.setPixel x y true, .readFb (x + y / 8 * 128)] s = .next t ∧ t.results = s.results ++ [.ok, .okByte v] ∧
    v = fbRead s.fb (x + y / 8 * 128) ||| (1#8 <<< (y % 8))

/-- R109, R113: DRAW_TEXT of a string (Unicode scalar values, R54) returns `Ok`, changes `FB` alone, and leaves every pixel of the frame
as the glyphs say: see `textPixel`. Holds for both blit modes, every font and all coordinates. A value that is no scalar value:
`DrawTextRefusesNonScalar`. -/
def Obligations.DrawTextDrawsGlyphs : Prop :=
  ∀ (s : State) (x y : Int) (cps : List Nat), cps.all isScalar = true → ∃ m : Memory,
    exec (.drawText x y cps) s = .next { s with fb := m, results := s.results ++ [.ok] } ∧
    (∀ px py : Int, inBounds px py = true →
      pixel m px py = textPixel s.params x y cps (pixel s.fb px py) px py) ∧
    ∀ i, 512 ≤ i → fbRead m i = fbRead s.fb i

/-- R137 (vector R-26): DRAW_TEXT of a value that is no Unicode scalar value has no meaning, and neither has a SHOW with one in either
line: both are refused, naming one. -/
def Obligations.DrawTextRefusesNonScalar : Prop :=
  (∀ (s : State) (x y : Int) (good rest : List Nat) (v : Nat), good.all isScalar = true → isScalar v = false →
    exec (.drawText x y (good ++ v :: rest)) s = .refused (.codePoint v)) ∧
  ∀ (s : State) (a b : List Nat), (a ++ b).all isScalar = false → ∃ v : Nat,
    facadeShow a b s = .refused (.codePoint v) ∧ v ∈ a ++ b ∧ isScalar v = false

/-- R115: a string drawn at `x = 0` leaves every pixel with `x ≥ 8·len` untouched, and shows what its first sixteen characters show. -/
def Obligations.TextWidthBound : Prop :=
  ∀ (s t u : State) (y : Int) (cps : List Nat),
    exec (.drawText 0 y cps) s = .next t → exec (.drawText 0 y (cps.take 16)) s = .next u →
    ∀ px py : Int, inBounds px py = true →
      (8 * (cps.length : Int) ≤ px → pixel t.fb px py = pixel s.fb px py) ∧ pixel t.fb px py = pixel u.fb px py

/-- R108: in `TRANSPARENT` mode a string of unknown code points only, blank cells, changes nothing. -/
def Obligations.UnknownCodePointsAreBlank : Prop :=
  ∀ (s : State) (x y : Int) (cps : List Nat), s.params.blitMode = .transparent →
    (∀ cp ∈ cps, isScalar cp = true ∧ (cp < 0x20 ∨ 0x7E < cp)) →
    exec (.drawText x y cps) s = .next { s with results := s.results ++ [.ok] }

/-- R114: in `TRANSPARENT` mode DRAW_TEXT clears no bit. -/
def Obligations.TransparentTextOnlySetsBits : Prop :=
  ∀ (s t : State) (x y : Int) (cps : List Nat), s.params.blitMode = .transparent → exec (.drawText x y cps) s = .next t →
    ∀ i, fbRead s.fb i &&& fbRead t.fb i = fbRead s.fb i

/-- R42, R108: a glyph's bit is bit `7 - c` of byte `13·g + r` of the font; an unknown code point has none. -/
def Obligations.GlyphBitsComeFromFont : Prop :=
  ∀ (p : Config.Params) (cp c r : Nat), p.wf = true → c < 8 → r < 13 →
    (0x20 ≤ cp → cp ≤ 0x7E →
      ∃ h : 13 * (cp - 0x20) + r < p.font.length, glyphPixel p cp c r = (p.font[13 * (cp - 0x20) + r]'h).getLsbD (7 - c)) ∧
    (cp < 0x20 ∨ 0x7E < cp → glyphPixel p cp c r = false)

/-- R31: `Pixel(x, y)` is bit `y mod 8` of `FB[x + (y/8)·128]`, the map is a bijection between the in-bounds pixels and the bits of
`FB`, and an out-of-bounds write is clipped. -/
def Obligations.PixelMapIsBijection : Prop :=
  (∀ (m : Memory) (x y : Nat), pixel m x y = (fbRead m (x + y / 8 * 128)).getLsbD (y % 8)) ∧
  (∀ x y : Int, inBounds x y = true → byteIndex x y < 512 ∧ bitIndex y < 8) ∧
  (∀ x y px py : Int, inBounds x y = true → inBounds px py = true → byteIndex x y = byteIndex px py → bitIndex y = bitIndex py →
    x = px ∧ y = py) ∧
  (∀ i b : Nat, i < 512 → b < 8 → ∃ x y : Int, inBounds x y = true ∧ byteIndex x y = i ∧ bitIndex y = b) ∧
  ∀ (m : Memory) (x y : Int) (v : Bool), inBounds x y = false → putPixel m x y v = m

/-! ## Driver -/

/-- R79 (and R128): INIT makes one transaction, of 26 bytes, whose answer decides: after `Ok` the latch is set and the result is `Ok`,
after `Err(k)` the latch is as it was and the result is `Err(Io(k))`. `FB`, the address, the configuration and HOST's queue are
unchanged, and BLOCK is Idle. Its opcode is 0x05. -/
def Obligations.InitMakesItsTransaction : Prop :=
  (∀ s : State, ∃ t : State, exec .init s = .next t ∧
    t.tlog = s.tlog ++ [⟨s.slaveAddr, 0x00#8 :: initSeq, (s.upcoming 0).answer⟩] ∧ (0x00#8 :: initSeq).length = 26 ∧
    t.seq = .idle ∧ t.fb = s.fb ∧ t.slaveAddr = s.slaveAddr ∧ t.params = s.params ∧ t.hostIn = s.hostIn ∧
    ((s.upcoming 0).answer = .ok → t.latch = true ∧ t.results = s.results ++ [.ok]) ∧
    ∀ k, (s.upcoming 0).answer = .err k → t.latch = s.latch ∧ t.results = s.results ++ [.err (.io k)]) ∧
  decode .host [0x05#8] = .ok (.init, [])

/-- R140 (vector PM-1): after a successful INIT every register of R24 has the value of `INIT_SEQ`, whatever it was before; the display
RAM, the window and the pointer are as before. Premise: PANEL carries no refusal mark (log 14). -/
def Obligations.InitConfiguresPanel : Prop :=
  ∀ s : State, s.panel.refused = none → (s.upcoming 0).answer = .ok → ∃ t : State, exec .init s = .next t ∧
    t.panel = { s.panel with
      displayOn := true, clockDiv := 0x80#8, mux := 0x1F#8, displayOffset := 0x00#8, startLine := 0#6, chargePump := 0x14#8,
      addrMode := 0x00#8, segRemap := true, comScanDec := true, comPins := 0x02#8, contrast := 0x8F#8, precharge := 0xF1#8,
      vcomh := 0x40#8, entireOn := false, invert := false, mode := some .command, rx := [] }

/-- R69, R84, R145: an INIT whose transaction fails with its first `n` bytes delivered (log 11), for every `n`, leaves PANEL as those
bytes leave it: every register whose command has come holds its INIT_SEQ value, the register of a command cut short is a free value
(log 12), the others are as before. Premise: PANEL carries no refusal mark (log 14). -/
def Obligations.FailedInitDeliversPart : Prop :=
  ∀ (s : State) (k : IoError), s.panel.refused = none → (s.upcoming 0).answer = .err k → ∃ t : State,
    exec .init s = .next t ∧ t.panel = s.panel.afterInitPart (s.upcoming 0).delivered

/-- R69, R84, R128: what PANEL holds after a FLUSH that failed. At the command transaction: what its delivered bytes leave. At data
transaction `j`: the window set, the bytes of the frame delivered so far in their places and every other byte of display RAM as
before, the pointer at the next place, every other register as before. Premise: PANEL carries no refusal mark (log 14) and, for data,
is in horizontal addressing mode (R105). -/
def Obligations.FailedFlushDeliversPart : Prop :=
  (∀ (s : State) (k : IoError), s.latch = true → s.panel.refused = none → (s.upcoming 0).answer = .err k → ∃ t : State,
    exec .flush s = .next t ∧ t.panel = s.panel.afterFlushPart (s.upcoming 0).delivered) ∧
  ∀ (s : State) (j : Nat) (k : IoError), s.latch = true → s.params.wf = true → s.panel.refused = none → s.panel.addrMode = 0x00#8 →
    j < chunkCount s.params → (∀ i, i ≤ j → (s.upcoming i).answer = .ok) → (s.upcoming (j + 1)).answer = .err k → ∃ t : State,
    exec .flush s = .next t ∧
    t.panel = { s.panel with
      colStart := 0#7, colEnd := 127#7, pageStart := 0#3, pageEnd := 3#3,
      gddram := t.panel.gddram, colPtr := t.panel.colPtr, pagePtr := t.panel.pagePtr, rx := [],
      mode := if (s.upcoming (j + 1)).delivered = 0 then none else some .data } ∧
    (∀ p c, p < 8 → c < 128 → gddramRead t.panel.gddram p c =
      if c + 128 * p < bytesShown s.params j (s.upcoming (j + 1)).delivered then fbRead s.fb (c + 128 * p)
      else gddramRead s.panel.gddram p c) ∧
    t.panel.colPtr.toNat = bytesShown s.params j (s.upcoming (j + 1)).delivered % 128 ∧
    t.panel.pagePtr.toNat = bytesShown s.params j (s.upcoming (j + 1)).delivered / 128 % 4

/-- R123 (and R128): FLUSH with the latch at 0 returns `Err(Uninitialized)`, makes no transaction and changes nothing; no other
instruction, and no FLUSH with the latch at 1, returns it. -/
def Obligations.FlushBeforeInit : Prop :=
  (∀ s : State, s.latch = false →
    exec .flush s = .next { s with seq := .idle, results := s.results ++ [.err .uninitialized] }) ∧
  ∀ (i : Instr) (s t : State), exec i s = .next t → t.results = s.results ++ [.err .uninitialized] → i = .flush ∧ s.latch = false

/-- R80, R81: FLUSH with the latch set and every transaction answered `Ok` makes the command transaction and `NCH` data transactions,
whose payloads join to the 512 bytes of `FB` in order, and returns `Ok`; `FB` and the latch are unchanged. -/
def Obligations.FlushSendsWholeFrame : Prop :=
  ∀ s : State, s.latch = true → s.params.wf = true →
    (∀ j, j ≤ chunkCount s.params → (s.upcoming j).answer = .ok) → ∃ (t : State) (data : List Tx), exec .flush s = .next t ∧
    t.tlog = s.tlog ++ ⟨s.slaveAddr, 0x00#8 :: flushSeq, .ok⟩ :: data ∧
    data.length = chunkCount s.params ∧
    (∀ e ∈ data, e.addr = s.slaveAddr ∧ e.answer = .ok ∧ e.bytes.head? = some 0x40#8 ∧ e.bytes.length ≤ s.params.dataChunk + 1) ∧
    (data.map fun e => e.bytes.tail).flatten = (List.range 512).map (fbRead s.fb) ∧
    t.results = s.results ++ [.ok] ∧ t.seq = .idle ∧ t.fb = s.fb ∧ t.latch = true ∧ t.slaveAddr = s.slaveAddr ∧
    t.params = s.params ∧ t.hostIn = s.hostIn

/-- R81: a FLUSH that returns `Ok` has made exactly one command transaction, then exactly `NCH` data transactions whose payloads join
to the 512 bytes of `FB` in order. -/
def Obligations.SuccessfulFlushSendsWholeFrame : Prop :=
  ∀ s t : State, s.params.wf = true → exec .flush s = .next t → t.results = s.results ++ [.ok] → ∃ data : List Tx,
    t.tlog = s.tlog ++ ⟨s.slaveAddr, 0x00#8 :: flushSeq, .ok⟩ :: data ∧ data.length = chunkCount s.params ∧
    (∀ e ∈ data, e.bytes.head? = some 0x40#8) ∧
    (data.map fun e => e.bytes.tail).flatten = (List.range 512).map (fbRead s.fb)

/-- R70, R124 (and R128): the first transaction answered `Err(k)` ends the operation with `Err(Io(k))`. INIT makes only the one; FLUSH
whose transaction `j` is the first so answered has made transactions 0 to `j` and makes no later one. `FB` and the latch stay as they
were. -/
def Obligations.FirstErrorEndsOperation : Prop :=
  (∀ (s : State) (k : IoError), (s.upcoming 0).answer = .err k → ∃ t : State, exec .init s = .next t ∧
    t.tlog = s.tlog ++ [⟨s.slaveAddr, 0x00#8 :: initSeq, .err k⟩] ∧ t.results = s.results ++ [.err (.io k)] ∧ t.seq = .idle ∧
    t.fb = s.fb ∧ t.latch = s.latch) ∧
  ∀ (s : State) (j : Nat) (k : IoError), s.latch = true → j ≤ chunkCount s.params →
    (∀ i, i < j → (s.upcoming i).answer = .ok) → (s.upcoming j).answer = .err k → ∃ (t : State) (bytes : List Byte),
    exec .flush s = .next t ∧
    ((flushTxs s (chunkCount s.params))[j]?).map (·.bytes) = some bytes ∧
    t.tlog = s.tlog ++ ((flushTxs s (chunkCount s.params)).take j ++ [⟨s.slaveAddr, bytes, .err k⟩]) ∧
    t.results = s.results ++ [.err (.io k)] ∧ t.seq = .idle ∧ t.fb = s.fb ∧ t.latch = true ∧ t.slaveAddr = s.slaveAddr ∧
    t.params = s.params ∧ t.hostIn = s.hostIn

/-- R76: data transaction `k` carries `FB[k·DATA_CHUNK .. min(512, (k+1)·DATA_CHUNK))`, each full except possibly the last, and the
payloads join to the frame for every legal chunk size. -/
def Obligations.ChunksCutFrameInOrder : Prop :=
  ∀ (p : Config.Params) (m : Memory), p.wf = true →
    (∀ k, k < chunkCount p → ∃ d, dataBytes p m k = 0x40#8 :: d ∧ 1 ≤ d.length ∧ d.length ≤ p.dataChunk ∧
      (k + 1 < chunkCount p → d.length = p.dataChunk) ∧ ∀ j, j < d.length → d[j]? = some (fbRead m (k * p.dataChunk + j))) ∧
    ((List.range (chunkCount p)).map fun k => (dataBytes p m k).tail).flatten = (List.range 512).map (fbRead m) ∧
    512 ≤ chunkCount p * p.dataChunk ∧ chunkCount p * p.dataChunk < 512 + p.dataChunk

/-- R80, R128, R129: FLUSH always completes, whatever TRANSPORT answers: one result, BLOCK Idle, `TLOG` only grown, by transactions to
the slave address, and `FB`, the latch, the address, the configuration and HOST's queue unchanged. -/
def Obligations.FlushAlwaysCompletes : Prop :=
  ∀ s : State, ∃ (t : State) (r : OpResult) (added : List Tx), exec .flush s = .next t ∧
    t.results = s.results ++ [r] ∧ t.seq = .idle ∧ t.tlog = s.tlog ++ added ∧ (∀ e ∈ added, e.addr = s.slaveAddr) ∧
    t.fb = s.fb ∧ t.latch = s.latch ∧ t.slaveAddr = s.slaveAddr ∧ t.params = s.params ∧ t.hostIn = s.hostIn

/-- R82 (and R39): two FLUSH that return `Ok` with the same `FB`, whatever was done between them, send the same transactions, and
those carry the whole frame. -/
def Obligations.FlushRepeatsSameBytes : Prop :=
  ∀ s t u v : State, s.params.wf = true → exec .flush s = .next t → t.results.getLast? = some .ok →
    u.fb = s.fb → u.slaveAddr = s.slaveAddr → u.params = s.params → exec .flush u = .next v → v.results.getLast? = some .ok →
    ∃ (c : Tx) (data : List Tx), t.tlog = s.tlog ++ c :: data ∧ v.tlog = u.tlog ++ c :: data ∧
      (data.map fun e => e.bytes.tail).flatten = (List.range 512).map (fbRead s.fb)

/-- R21: one step per transaction, with the position in `SEQ`, comes to what the whole operation does in one step. -/
def Obligations.SequencerRefinesOperations : Prop :=
  (∀ (s : State) (n : Nat), 1 ≤ n → exec .init s = .next (seqRun n { s with seq := .initCmd })) ∧
  ∀ (s : State) (n : Nat), s.latch = true → chunkCount s.params < n →
    exec .flush s = .next (seqRun n { s with seq := .flushCmd })

/-! ## PANEL -/

/-- R87, R91, R94, R95, R100, R101, R102: the one-byte commands write their register of PANEL and nothing else. -/
def Obligations.OneByteCommandsWriteRegister : Prop :=
  ∀ s : State,
    exec .displayOff s = .next { s with panel := { s.panel with displayOn := false } } ∧
    exec .displayOn s = .next { s with panel := { s.panel with displayOn := true } } ∧
    exec .setStartLine0 s = .next { s with panel := { s.panel with startLine := 0#6 } } ∧
    exec .segRemap s = .next { s with panel := { s.panel with segRemap := true } } ∧
    exec .comScanDec s = .next { s with panel := { s.panel with comScanDec := true } } ∧
    exec .entireDisplayResume s = .next { s with panel := { s.panel with entireOn := false } } ∧
    exec .normalDisplay s = .next { s with panel := { s.panel with invert := false } }

/-- R88 to R90, R92, R93, R96 to R99: the commands with one parameter store it whole in their register of PANEL and change nothing
else. -/
def Obligations.ParameterCommandsStoreParameter : Prop :=
  ∀ s : State,
    exec .setClockDiv s = .next { s with panel := { s.panel with clockDiv := 0x80#8 } } ∧
    exec .setMultiplex s = .next { s with panel := { s.panel with mux := 0x1F#8 } } ∧
    exec .setDisplayOffset s = .next { s with panel := { s.panel with displayOffset := 0x00#8 } } ∧
    exec .chargePump s = .next { s with panel := { s.panel with chargePump := 0x14#8 } } ∧
    exec .setAddrMode s = .next { s with panel := { s.panel with addrMode := 0x00#8 } } ∧
    exec .setComPins s = .next { s with panel := { s.panel with comPins := 0x02#8 } } ∧
    exec .setContrast s = .next { s with panel := { s.panel with contrast := 0x8F#8 } } ∧
    exec .setPrecharge s = .next { s with panel := { s.panel with precharge := 0xF1#8 } } ∧
    exec .setVcomh s = .next { s with panel := { s.panel with vcomh := 0x40#8 } }

/-- R103, R104: the window commands set the window and put the pointer at its start; the window the block sends is columns 0 to 127 and
pages 0 to 3; a window out of range has no meaning. (PANEL's port reads only the window the block sends, R63; that the meaning is given
for every window in range is log 16.) -/
def Obligations.RangeCommandsSetWindow : Prop :=
  (∀ (s : State) (a b : Byte), a.toNat ≤ b.toNat → b.toNat ≤ 0x7F →
    exec (.setColumnRange a b) s = .next { s with panel :=
      { s.panel with colStart := a.setWidth 7, colEnd := b.setWidth 7, colPtr := a.setWidth 7 } }) ∧
  (∀ (s : State) (a b : Byte), a.toNat ≤ b.toNat → b.toNat ≤ 0x07 →
    exec (.setPageRange a b) s = .next { s with panel :=
      { s.panel with pageStart := a.setWidth 3, pageEnd := b.setWidth 3, pagePtr := a.setWidth 3 } }) ∧
  (∀ s : State, ∃ t : State, exec (.setColumnRange 0x00#8 0x7F#8) s = .next t ∧
    t.panel.colStart = 0#7 ∧ t.panel.colEnd = 127#7 ∧ t.panel.colPtr = 0#7) ∧
  (∀ s : State, ∃ t : State, exec (.setPageRange 0x00#8 0x03#8) s = .next t ∧
    t.panel.pageStart = 0#3 ∧ t.panel.pageEnd = 3#3 ∧ t.panel.pagePtr = 0#3) ∧
  (∀ (s : State) (a b : Byte), b.toNat < a.toNat ∨ 0x7F < a.toNat ∨ 0x7F < b.toNat →
    exec (.setColumnRange a b) s = .refused (.columnRange a b)) ∧
  ∀ (s : State) (a b : Byte), b.toNat < a.toNat ∨ 0x07 < a.toNat ∨ 0x07 < b.toNat →
    exec (.setPageRange a b) s = .refused (.pageRange a b)

/-- R85: control byte 0x00 puts the rest of the transaction in command mode and 0x40 in data mode; any other is refused. -/
def Obligations.ControlByteSelectsMode : Prop :=
  (∀ s : State, exec .ctrlCommand s = .next { s with panel := { s.panel with mode := some .command } } ∧
    exec .ctrlData s = .next { s with panel := { s.panel with mode := some .data } }) ∧
  decode .control [0x00#8] = .ok (.ctrlCommand, []) ∧ decode .control [0x40#8] = .ok (.ctrlData, []) ∧
  ∀ (s : State) (b : Byte) (bs : List Byte), b ≠ 0x00#8 → b ≠ 0x40#8 → s.panel.refused = none → s.panel.mode = none →
    s.panel.rx = b :: bs → step s = .refused (.undecodable (.controlByte b))

/-- R105: a display-data byte in horizontal addressing mode is written at the pointer, which then advances along the window, column
first, wrapping at its ends; outside that mode it is refused. (Where the pointer stands on its register's last value outside the
window R105 gives no next value, and this statement gives none: log 13.) -/
def Obligations.DisplayDataFillsWindow : Prop :=
  ∀ (s : State) (d : Byte) (ds : List Byte), s.panel.refused = none → s.panel.mode = some .data → s.panel.rx = d :: ds →
    (s.panel.addrMode ≠ 0x00#8 → step s = .refused (.addressingMode s.panel.addrMode)) ∧
    (s.panel.addrMode = 0x00#8 → ∃ t : State, step s = .next t ∧
      t = { s with panel := { s.panel with
        gddram := t.panel.gddram, colPtr := t.panel.colPtr, pagePtr := t.panel.pagePtr, draws := t.panel.draws, rx := ds } } ∧
      gddramRead t.panel.gddram s.panel.pagePtr.toNat s.panel.colPtr.toNat = d ∧
      (∀ p c, p < 8 → c < 128 → ¬(p = s.panel.pagePtr.toNat ∧ c = s.panel.colPtr.toNat) →
        gddramRead t.panel.gddram p c = gddramRead s.panel.gddram p c) ∧
      (s.panel.colPtr ≠ s.panel.colEnd → s.panel.colPtr ≠ 127#7 →
        t.panel.colPtr = s.panel.colPtr + 1#7 ∧ t.panel.pagePtr = s.panel.pagePtr) ∧
      (s.panel.colPtr = s.panel.colEnd → s.panel.pagePtr = s.panel.pageEnd →
        t.panel.colPtr = s.panel.colStart ∧ t.panel.pagePtr = s.panel.pageStart) ∧
      (s.panel.colPtr = s.panel.colEnd → s.panel.pagePtr ≠ s.panel.pageEnd → s.panel.pagePtr ≠ 7#3 →
        t.panel.colPtr = s.panel.colStart ∧ t.panel.pagePtr = s.panel.pagePtr + 1#3))

/-- R84 (log 12): a command cut short, in each of the thirteen ways the block's commands can be, changes the register it would have
written, to the free value `Config.freeByte` of the counter, and no other register. -/
def Obligations.CutCommandDrawsItsRegister : Prop :=
  ∀ s : State, s.panel.refused = none → s.panel.mode = some .command →
    (s.panel.rx = [0xD5#8] → step s = .next { s with panel :=
      { s.panel with clockDiv := Config.freeByte s.panel.draws, rx := [], draws := s.panel.draws + 1 } }) ∧
    (s.panel.rx = [0xA8#8] → step s = .next { s with panel :=
      { s.panel with mux := Config.freeByte s.panel.draws, rx := [], draws := s.panel.draws + 1 } }) ∧
    (s.panel.rx = [0xD3#8] → step s = .next { s with panel :=
      { s.panel with displayOffset := Config.freeByte s.panel.draws, rx := [], draws := s.panel.draws + 1 } }) ∧
    (s.panel.rx = [0x8D#8] → step s = .next { s with panel :=
      { s.panel with chargePump := Config.freeByte s.panel.draws, rx := [], draws := s.panel.draws + 1 } }) ∧
    (s.panel.rx = [0x20#8] → step s = .next { s with panel :=
      { s.panel with addrMode := Config.freeByte s.panel.draws, rx := [], draws := s.panel.draws + 1 } }) ∧
    (s.panel.rx = [0xDA#8] → step s = .next { s with panel :=
      { s.panel with comPins := Config.freeByte s.panel.draws, rx := [], draws := s.panel.draws + 1 } }) ∧
    (s.panel.rx = [0x81#8] → step s = .next { s with panel :=
      { s.panel with contrast := Config.freeByte s.panel.draws, rx := [], draws := s.panel.draws + 1 } }) ∧
    (s.panel.rx = [0xD9#8] → step s = .next { s with panel :=
      { s.panel with precharge := Config.freeByte s.panel.draws, rx := [], draws := s.panel.draws + 1 } }) ∧
    (s.panel.rx = [0xDB#8] → step s = .next { s with panel :=
      { s.panel with vcomh := Config.freeByte s.panel.draws, rx := [], draws := s.panel.draws + 1 } }) ∧
    (s.panel.rx = [0x21#8] ∨ s.panel.rx = [0x21#8, 0x00#8] → step s = .next { s with panel := { s.panel with
      colStart := (Config.freeByte s.panel.draws).setWidth 7, colEnd := (Config.freeByte (s.panel.draws + 1)).setWidth 7,
      colPtr := (Config.freeByte (s.panel.draws + 2)).setWidth 7, rx := [], draws := s.panel.draws + 3 } }) ∧
    (s.panel.rx = [0x22#8] ∨ s.panel.rx = [0x22#8, 0x00#8] → step s = .next { s with panel := { s.panel with
      pageStart := (Config.freeByte s.panel.draws).setWidth 3, pageEnd := (Config.freeByte (s.panel.draws + 1)).setWidth 3,
      pagePtr := (Config.freeByte (s.panel.draws + 2)).setWidth 3, rx := [], draws := s.panel.draws + 3 } })

/-- R106: after an INIT and a FLUSH that both return `Ok`, with no transaction between (so with PANEL and the configuration as INIT left
them, whatever was drawn in `FB` and returned meanwhile), PANEL's pages 0 to 3 hold the `FB` flushed, pages 4 to 7 are as before, the
pointer is back at (0, 0) and the display is on. Premise: PANEL carries no refusal mark (log 14). -/
def Obligations.PanelShowsFramebuffer : Prop :=
  ∀ s t v u : State, s.panel.refused = none → s.params.wf = true →
    exec .init s = .next t → t.results.getLast? = some .ok →
    v.panel = t.panel → v.params = t.params →
    exec .flush v = .next u → u.results.getLast? = some .ok →
    u.fb = v.fb ∧
    (∀ p c, p ≤ 3 → c ≤ 127 → gddramRead u.panel.gddram p c = fbRead u.fb (c + 128 * p)) ∧
    (∀ p c, 4 ≤ p → p ≤ 7 → c ≤ 127 → gddramRead u.panel.gddram p c = gddramRead s.panel.gddram p c) ∧
    u.panel.colPtr = 0#7 ∧ u.panel.pagePtr = 0#3 ∧ u.panel.displayOn = true ∧ u.panel.refused = none

/-- R72: nothing PANEL holds can influence what a step of BLOCK does outside PANEL. -/
def Obligations.PanelCannotInfluenceBlock : Prop :=
  ∀ (s : State) (p : Panel), s.panel.rx = [] → p.rx = [] → ∃ q : Panel,
    step (s.withPanel p) = withoutPanel q (step s)

/-- R72, R137 (log 14, the model's choice): with addressing mode other than horizontal, FLUSH still sends its frame, transaction for
transaction, and returns `Ok`; PANEL keeps the refusal mark, and with it no host operation changes PANEL. -/
def Obligations.RefusedPanelKeepsMark : Prop :=
  (∀ s : State, s.latch = true → s.params.wf = true → s.panel.refused = none → s.panel.addrMode ≠ 0x00#8 →
    (∀ j, j ≤ chunkCount s.params → (s.upcoming j).answer = .ok) → ∃ t : State, exec .flush s = .next t ∧
    t.tlog = s.tlog ++ flushTxs s (chunkCount s.params) ∧
    t.results = s.results ++ [.ok] ∧ t.panel.refused = some (.addressingMode s.panel.addrMode)) ∧
  ∀ (s : State) (i : Instr) (r : Refusal), s.panel.refused = some r → i.port = .host → i.wf = true →
    ∃ t : State, exec i s = .next t ∧ t.panel = s.panel

/-! ## The whole machine -/

/-- R28, R138: the state after construction; the power-on bytes of `FB` are free values. -/
def Obligations.ResetValues : Prop :=
  (∀ addr : SlaveAddr, (State.construct addr).slaveAddr = addr ∧ (State.construct addr).latch = false ∧
    (State.construct addr).seq = .idle ∧ (State.construct addr).tlog = [] ∧
    ∀ i, fbRead (State.construct addr).fb i = Config.powerOnFb i) ∧
  State.reset = State.construct 0x3C#7

/-- R16, R17, R19, R25, R58, R66: every step keeps the invariant `State.Inv`. -/
def Obligations.StepKeepsInvariant : Prop :=
  ∀ s t : State, s.Inv → step s = .next t → t.Inv

/-- The invariant holds after construction with any address. -/
def Obligations.ConstructionMeetsInvariant : Prop :=
  ∀ addr : SlaveAddr, (State.construct addr).Inv

/-- R17: a step never clears the latch, and sets it only with an init transaction answered `Ok`. -/
def Obligations.OnlyInitSetsLatch : Prop :=
  ∀ s t : State, step s = .next t →
    (s.latch = true → t.latch = true) ∧
    (s.latch = false → t.latch = true → t.tlog = s.tlog ++ [⟨s.slaveAddr, 0x00#8 :: initSeq, .ok⟩])

/-- R16: `FB` is written by CLEAR, SET_PIXEL and DRAW_TEXT alone: no other instruction, and no transaction of an operation in
progress, changes it. -/
def Obligations.OnlyDrawingWritesFb : Prop :=
  (∀ (i : Instr) (s t : State), i ≠ .clear → (∀ x y on, i ≠ .setPixel x y on) → (∀ x y cps, i ≠ .drawText x y cps) →
    exec i s = .next t → t.fb = s.fb) ∧
  ∀ s : State, (seqStep s).fb = s.fb

/-- R13, R18, R22, R66: no step writes the slave address or the configuration, the log only grows, and every transaction added goes to
the slave address. -/
def Obligations.SlaveAddrIsFixed : Prop :=
  ∀ s t : State, step s = .next t → t.slaveAddr = s.slaveAddr ∧ t.params = s.params ∧
    ∃ added : List Tx, t.tlog = s.tlog ++ added ∧ ∀ e ∈ added, e.addr = s.slaveAddr

/-- R125, R127, R129: every well-formed host operation returns exactly one result, leaves BLOCK Idle and PANEL nothing to act on, so
that the next operation is accepted; CLEAR, SET_PIXEL, READ_FB and DRAW_TEXT never return an error and make no transaction. -/
def Obligations.EveryHostOperationReturns : Prop :=
  ∀ (s : State) (i : Instr), i.port = .host → i.wf = true → s.seq = .idle → s.panel.rx = [] → ∃ (t : State) (r : OpResult),
    exec i s = .next t ∧ t.results = s.results ++ [r] ∧ t.seq = .idle ∧ t.panel.rx = [] ∧ t.hostIn = s.hostIn ∧
    (i ≠ .init → i ≠ .flush → (∀ e, r ≠ .err e) ∧ t.tlog = s.tlog ∧ t.panel = s.panel ∧ t.latch = s.latch)

/-- R122: the numeric codes of the results. -/
def Obligations.ResultCodes : Prop :=
  OpResult.ok.code = 0 ∧ (∀ v, (OpResult.okByte v).code = 0) ∧ (OpResult.err .uninitialized).code = 1 ∧
  (OpResult.err (.io .nack)).code = 2 ∧ (OpResult.err (.io .busError)).code = 3 ∧ (OpResult.err (.io .timeout)).code = 4

/-! ## Facade -/

/-- R117: SHOW composes the two lines on a cleared frame, then flushes; its result is FLUSH's. (Lines are
strings of Unicode scalar values; any other value: `DrawTextRefusesNonScalar`.) -/
def Obligations.ShowComposesThenFlushes : Prop :=
  ∀ (s : State) (a b : List Nat), a.all isScalar = true → b.all isScalar = true → ∃ (m : Memory) (t : State),
    exec .flush { s with fb := m, results := s.results ++ [.ok, .ok, .ok] } = .next t ∧
    facadeShow a b s = .next (t, t.results.getLast?) ∧ t.fb = m ∧
    ∀ px py : Int, inBounds px py = true →
      pixel m px py = textPixel s.params 0 30 b (textPixel s.params 0 15 a false px py) px py

/-- R117 (vector S-1): SHOW before INIT returns `Err(Uninitialized)` and makes no transaction. -/
def Obligations.ShowBeforeInit : Prop :=
  ∀ (s : State) (a b : List Nat), a.all isScalar = true → b.all isScalar = true → s.latch = false → ∃ t : State,
    facadeShow a b s = .next (t, some (.err .uninitialized)) ∧ t.tlog = s.tlog ∧ t.panel = s.panel

/-- R118: no transaction of a SHOW carries a half-drawn frame: each is the command block or a chunk of the finished frame. -/
def Obligations.ShowSendsFinishedFrame : Prop :=
  ∀ (s t : State) (a b : List Nat) (r : Option OpResult), facadeShow a b s = .next (t, r) → ∃ sent : List Tx,
    t.tlog = s.tlog ++ sent ∧
    ∀ e ∈ sent, e.bytes = flushBytes ∨ ∃ k, k < chunkCount t.params ∧ e.bytes = dataBytes t.params t.fb k

/-- R120: after SHOW rows 0 to 2, 16, 17 and 31 are 0, and so is everything right of each line's last character. -/
def Obligations.ShowLayout : Prop :=
  ∀ (s t : State) (a b : List Nat) (r : Option OpResult), facadeShow a b s = .next (t, r) →
    ∀ px py : Int, inBounds px py = true →
      (py ≤ 2 ∨ py = 16 ∨ py = 17 ∨ py = 31 → pixel t.fb px py = false) ∧
      (3 ≤ py → py ≤ 15 → 8 * (a.length : Int) ≤ px → pixel t.fb px py = false) ∧
      (18 ≤ py → py ≤ 30 → 8 * (b.length : Int) ≤ px → pixel t.fb px py = false)

/-- R119: FACADE_CLEAR zeroes `FB`, flushes, and returns `Ok` whatever the flush returned; before INIT it makes no transaction. Two in a
row make the same list of transactions when both flushes return `Ok`, and none at all before INIT. -/
def Obligations.FacadeClearSuppressesErrors : Prop :=
  (∀ s : State, ∃ t : State, facadeClear s = .next (t, .ok) ∧ (∀ i, i < 512 → fbRead t.fb i = 0x00#8) ∧
    exec .flush { s with fb := t.fb, results := s.results ++ [.ok] } = .next t ∧ (s.latch = false → t.tlog = s.tlog)) ∧
  ∀ (s t u : State) (r q : OpResult), facadeClear s = .next (t, r) → facadeClear t = .next (u, q) →
    (t.results.getLast? = some .ok → u.results.getLast? = some .ok →
      ∃ sent : List Tx, t.tlog = s.tlog ++ sent ∧ u.tlog = t.tlog ++ sent) ∧
    (s.latch = false → u.tlog = s.tlog)
end

