-- ==== Sys2Proof/Laws/Decode.lean ====
section
/-! SUPPORT. The fields of the encodings: bytes of a field read back to the field. -/

namespace Sys2Proof

/-- A 32-bit field is read back from its bytes. -/
theorem le32_bytes (w : BitVec 32) :
    le32 (BitVec.ofNat 8 w.toNat) (BitVec.ofNat 8 (w.toNat / 2 ^ 8)) (BitVec.ofNat 8 (w.toNat / 2 ^ 16))
      (BitVec.ofNat 8 (w.toNat / 2 ^ 24)) = w := by
  have h := w.isLt
  apply BitVec.eq_of_toNat_eq
  simp only [le32, BitVec.toNat_ofNat]
  omega

/-- The bytes of a 32-bit field made of four bytes. -/
theorem le32Bytes_le32 (b0 b1 b2 b3 : Byte) : le32Bytes (le32 b0 b1 b2 b3) = [b0, b1, b2, b3] := by
  have h0 := b0.isLt
  have h1 := b1.isLt
  have h2 := b2.isLt
  have h3 := b3.isLt
  simp only [le32Bytes, le32, BitVec.toNat_ofNat, List.cons.injEq, and_true]
  refine ⟨?_, ?_, ?_, ?_⟩ <;> apply BitVec.eq_of_toNat_eq <;> simp only [BitVec.toNat_ofNat] <;> omega

/-- A 16-bit field is read back from its bytes. -/
theorem le16_bytes (w : BitVec 16) : le16 (BitVec.ofNat 8 w.toNat) (BitVec.ofNat 8 (w.toNat / 2 ^ 8)) = w := by
  have h := w.isLt
  apply BitVec.eq_of_toNat_eq
  simp only [le16, BitVec.toNat_ofNat]
  omega

/-- The bytes of a 16-bit field made of two bytes. -/
theorem le16Bytes_le16 (b0 b1 : Byte) : le16Bytes (le16 b0 b1) = [b0, b1] := by
  have h0 := b0.isLt
  have h1 := b1.isLt
  simp only [le16Bytes, le16, BitVec.toNat_ofNat, List.cons.injEq, and_true]
  refine ⟨?_, ?_⟩ <;> apply BitVec.eq_of_toNat_eq <;> simp only [BitVec.toNat_ofNat] <;> omega

/-- An operand in range is read back from its 32 bits (R53). -/
theorem toInt_ofInt_of_isS32 {x : Int} (h : isS32 x = true) : (BitVec.ofInt 32 x).toInt = x := by
  simp only [isS32, Bool.and_eq_true, decide_eq_true_eq] at h
  rw [BitVec.toInt_ofInt, Int.bmod_eq_of_le] <;> omega

/-- Every 32-bit field is an operand in range, and reads back to itself (R53). -/
theorem isS32_toInt (w : BitVec 32) : isS32 w.toInt = true := by
  have h1 := BitVec.toInt_lt (x := w)
  have h2 := BitVec.le_toInt (x := w)
  simp only [isS32, Bool.and_eq_true, decide_eq_true_eq]
  constructor <;> omega

/-- A Unicode scalar value fits its 32-bit field (R54). -/
theorem isScalar_lt {v : Nat} (h : isScalar v = true) : v < 2 ^ 32 := by
  simp only [isScalar, Bool.and_eq_true, decide_eq_true_eq] at h
  omega

/-- A 32-bit field, as bytes at the front of what follows: the four bytes read back to it. -/
theorem le32Bytes_append (w : BitVec 32) (rest : List Byte) :
    ∃ b0 b1 b2 b3, le32Bytes w ++ rest = b0 :: b1 :: b2 :: b3 :: rest ∧ le32 b0 b1 b2 b3 = w :=
  ⟨_, _, _, _, rfl, le32_bytes w⟩

/-- A 16-bit field, likewise. -/
theorem le16Bytes_append (w : BitVec 16) (rest : List Byte) :
    ∃ b0 b1, le16Bytes w ++ rest = b0 :: b1 :: rest ∧ le16 b0 b1 = w :=
  ⟨_, _, rfl, le16_bytes w⟩

/-- A number that fits 32 bits is its field's value. -/
theorem toNat_ofNat32 {n : Nat} (h : n < 4294967296) : (BitVec.ofNat 32 n).toNat = n := by
  rw [BitVec.toNat_ofNat]
  exact Nat.mod_eq_of_lt h

/-- A number that fits 16 bits is its field's value. -/
theorem toNat_ofNat16 {n : Nat} (h : n < 65536) : (BitVec.ofNat 16 n).toNat = n := by
  rw [BitVec.toNat_ofNat]
  exact Nat.mod_eq_of_lt h

/-- The bytes of `n` code points are `4n` (R54). -/
theorem encodeCodePoints_length (cps : List Nat) : (encodeCodePoints cps).length = 4 * cps.length := by
  induction cps with
  | nil => rfl
  | cons v cps ih => simp [encodeCodePoints, le32Bytes, ih]; omega

/-! ## One equation per port and opcode -/

theorem decode_host (bs : List Byte) : decode .host bs = decodeHost bs := rfl
theorem decode_control (bs : List Byte) : decode .control bs = decodeControl bs := rfl
theorem decode_command (bs : List Byte) : decode .command bs = decodeCommand bs := rfl
theorem decodeHost_clear (bs : List Byte) : decodeHost (0x01#8 :: bs) = .ok (.clear, bs) := rfl
theorem decodeHost_pixel (bs : List Byte) : decodeHost (0x02#8 :: bs) = decodePixel bs := rfl
theorem decodeHost_text (bs : List Byte) : decodeHost (0x03#8 :: bs) = decodeText bs := rfl
theorem decodeHost_read (bs : List Byte) : decodeHost (0x04#8 :: bs) = decodeRead bs := rfl
theorem decodeHost_init (bs : List Byte) : decodeHost (0x05#8 :: bs) = .ok (.init, bs) := rfl
theorem decodeHost_flush (bs : List Byte) : decodeHost (0x06#8 :: bs) = .ok (.flush, bs) := rfl

/-! ## PANEL's decoders: what they accept -/

/-- A control byte PANEL accepts is the encoding of the instruction read (R58, R85). -/
theorem decodeControl_ok {bs rest : List Byte} {i : Instr} (h : decodeControl bs = .ok (i, rest)) :
    i.port = .control ∧ i.wf = true ∧ bs = encode i ++ rest := by
  unfold decodeControl at h
  split at h
  · simp at h
  · split at h
    · simp only [Except.ok.injEq, Prod.mk.injEq] at h
      obtain ⟨rfl, rfl⟩ := h
      simp_all [Instr.port, Instr.wf, encode]
    · split at h
      · simp only [Except.ok.injEq, Prod.mk.injEq] at h
        obtain ⟨rfl, rfl⟩ := h
        simp_all [Instr.port, Instr.wf, encode]
      · simp at h

/-- Every row of the command map is read at PANEL's command port and encodes to its command byte and parameters (R61). -/
theorem commandRows_encode :
    ∀ row ∈ commandRows, row.instr.port = .command ∧ row.instr.wf = true ∧ encode row.instr = row.cmd :: row.params := by
  decide

/-- The parameters taken are the ones asked for. -/
theorem takeParams_ok {cmd : Byte} {qs bs rest : List Byte} (h : takeParams cmd qs bs = .ok rest) : bs = qs ++ rest := by
  induction qs generalizing bs with
  | nil => simpa [takeParams] using h
  | cons q qs ih =>
    cases bs with
    | nil => simp [takeParams] at h
    | cons p bs =>
      unfold takeParams at h
      split at h
      · next hpq => rw [hpq, ih h, List.cons_append]
      · simp at h

/-- Parameters that are there are taken. -/
theorem takeParams_append (cmd : Byte) (qs rest : List Byte) : takeParams cmd qs (qs ++ rest) = .ok rest := by
  induction qs with
  | nil => rfl
  | cons q qs ih => rw [List.cons_append, takeParams, if_pos rfl, ih]

/-- A parameter other than the one asked for is refused by name (R63, R86). -/
theorem takeParams_ne (cmd : Byte) {q p : Byte} (qs bs : List Byte) (h : p ≠ q) :
    takeParams cmd (q :: qs) (p :: bs) = .error (.parameter cmd p) := by
  rw [takeParams, if_neg h]

/-- Every row of the map is found by its command byte, and no other row is (R61). -/
theorem commandRows_find : ∀ row ∈ commandRows, commandRows.find? (fun r => r.cmd == row.cmd) = some row := by
  decide

/-- A command byte of the map selects its row (R62). -/
theorem decodeCommand_row {row : CommandRow} (h : row ∈ commandRows) (bs : List Byte) :
    decodeCommand (row.cmd :: bs) = decodeRow row bs := by
  rw [decodeCommand, commandRows_find row h]

/-- A row reads its own bytes, whatever follows (R61). -/
theorem decodeRow_params (row : CommandRow) (rest : List Byte) : decodeRow row (row.params ++ rest) = .ok (row.instr, rest) := by
  rw [decodeRow, takeParams_append]

/-- A command PANEL accepts is the encoding of the instruction read (R61, R62). -/
theorem decodeCommand_ok {bs rest : List Byte} {i : Instr} (h : decodeCommand bs = .ok (i, rest)) :
    i.port = .command ∧ i.wf = true ∧ bs = encode i ++ rest := by
  unfold decodeCommand at h
  split at h
  · simp at h
  · split at h
    · next cmd bs _ row hf =>
      obtain ⟨h1, h2, h3⟩ := commandRows_encode row (List.mem_of_find?_eq_some hf)
      have hc : row.cmd = cmd := by simpa using List.find?_some hf
      unfold decodeRow at h
      split at h
      · next r hr =>
        simp only [Except.ok.injEq, Prod.mk.injEq] at h
        obtain ⟨rfl, rfl⟩ := h
        exact ⟨h1, h2, by rw [h3, hc, List.cons_append, takeParams_ok hr]⟩
      · simp at h
    · simp at h

end Sys2Proof
end

