-- ==== Sys2Proof/Laws/Memory.lean ====
section
/-! SUPPORT. The memory laws: read after write, other addresses untouched, the canonical form kept, equal reads give equal data. -/

namespace Sys2Proof.Machine

@[simp] theorem Memory.find_put_same (m : Memory) (a : Nat) (v : Byte) : Memory.find (Memory.put m a v) a = some v := by
  induction m with
  | nil => simp [Memory.put, Memory.find]
  | cons c m ih =>
    unfold Memory.put
    split
    · simp [Memory.find]
    · split
      · simp [Memory.find]
      · next h => simp [Memory.find, h, ih]

theorem Memory.find_put_other (m : Memory) {a b : Nat} (v : Byte) (h : b ≠ a) :
    Memory.find (Memory.put m a v) b = Memory.find m b := by
  induction m with
  | nil => simp [Memory.put, Memory.find, h]
  | cons c m ih =>
    unfold Memory.put
    split
    · simp [Memory.find, h]
    · split
      · next hc => subst hc; simp [Memory.find, h]
      · simp [Memory.find, ih]

/-- The canonical form, said of one cell and the rest. -/
theorem Memory.wf_cons {size : Nat} {c : Host.Cell} {m : Memory} :
    Memory.wf size (c :: m) = true ↔ c.1 < size ∧ (∀ d ∈ m, c.1 < d.1) ∧ Memory.wf size m = true := by
  simp [Memory.wf, and_assoc]

theorem Memory.mem_put {m : Memory} {a : Nat} {v : Byte} {d : Host.Cell} (h : d ∈ Memory.put m a v) : d = (a, v) ∨ d ∈ m := by
  induction m with
  | nil => simpa [Memory.put] using h
  | cons c m ih =>
    unfold Memory.put at h
    split at h
    · simpa using h
    · split at h
      · simp only [List.mem_cons] at h ⊢
        tauto
      · simp only [List.mem_cons] at h ⊢
        rcases h with h | h
        · exact .inr (.inl h)
        · rcases ih h with h | h
          · exact .inl h
          · exact .inr (.inr h)

/-- A write inside the address space keeps the canonical form. -/
theorem Memory.wf_put {size : Nat} {m : Memory} {a : Nat} (v : Byte) (ha : a < size) (h : Memory.wf size m = true) :
    Memory.wf size (Memory.put m a v) = true := by
  induction m with
  | nil => simp [Memory.put, Memory.wf, ha]
  | cons c m ih =>
    obtain ⟨hc, hlt, hm⟩ := Memory.wf_cons.mp h
    unfold Memory.put
    split
    · next hac =>
      refine Memory.wf_cons.mpr ⟨ha, fun d hd => ?_, h⟩
      rcases List.mem_cons.mp hd with rfl | hd
      · exact hac
      · exact Nat.lt_trans hac (hlt d hd)
    · split
      · next hac => exact Memory.wf_cons.mpr ⟨ha, fun d hd => hac ▸ hlt d hd, hm⟩
      · next h1 h2 =>
        refine Memory.wf_cons.mpr ⟨hc, fun d hd => ?_, ih hm⟩
        rcases Memory.mem_put hd with rfl | hd
        · exact Nat.lt_of_le_of_ne (Nat.le_of_not_lt h1) (Ne.symm h2)
        · exact hlt d hd

/-- An address below every listed one is not listed. -/
theorem Memory.find_none_of_lt {m : Memory} {a : Nat} (h : ∀ d ∈ m, a < d.1) : Memory.find m a = none := by
  induction m with
  | nil => rfl
  | cons c m ih =>
    have hc : a < c.1 := h c (by simp)
    simp [Memory.find, Nat.ne_of_lt hc, ih fun d hd => h d (by simp [hd])]

/-- In canonical form, memories that hold the same written bytes are the same data. -/
theorem Memory.ext_of_find {n1 n2 : Nat} {m1 m2 : Memory} (h1 : Memory.wf n1 m1 = true) (h2 : Memory.wf n2 m2 = true)
    (h : ∀ a, Memory.find m1 a = Memory.find m2 a) : m1 = m2 := by
  induction m1 generalizing m2 with
  | nil =>
    cases m2 with
    | nil => rfl
    | cons d m2 => simpa [Memory.find] using h d.1
  | cons c m1 ih =>
    cases m2 with
    | nil => simpa [Memory.find] using h c.1
    | cons d m2 =>
      obtain ⟨-, hc, hm1⟩ := Memory.wf_cons.mp h1
      obtain ⟨-, hd, hm2⟩ := Memory.wf_cons.mp h2
      have hcd : c.1 = d.1 := by
        rcases Nat.lt_trichotomy c.1 d.1 with hl | he | hl
        · have h' := h c.1
          rw [Memory.find_none_of_lt (m := d :: m2) (by
            intro e he; rcases List.mem_cons.mp he with rfl | he
            · exact hl
            · exact Nat.lt_trans hl (hd e he))] at h'
          simp [Memory.find] at h'
        · exact he
        · have h' := h d.1
          rw [Memory.find_none_of_lt (m := c :: m1) (by
            intro e he; rcases List.mem_cons.mp he with rfl | he
            · exact hl
            · exact Nat.lt_trans hl (hc e he))] at h'
          simp [Memory.find] at h'
      have hv : c.2 = d.2 := by simpa [Memory.find, hcd] using h c.1
      have hrest : ∀ a, Memory.find m1 a = Memory.find m2 a := by
        intro a
        by_cases ha : a = c.1
        · rw [ha, Memory.find_none_of_lt hc, hcd, Memory.find_none_of_lt hd]
        · simpa [Memory.find, ha, hcd ▸ ha] using h a
      rw [Prod.ext hcd hv, ih hm1 hm2 hrest]

/-! ## The framebuffer -/

@[simp] theorem fbRead_fbWrite_same (m : Memory) (i : Nat) (v : Byte) : fbRead (fbWrite m i v) i = v := by
  simp [fbRead, fbWrite]

theorem fbRead_fbWrite_other (m : Memory) {i j : Nat} (v : Byte) (h : j ≠ i) : fbRead (fbWrite m i v) j = fbRead m j := by
  simp [fbRead, fbWrite, Memory.find_put_other m v h]

theorem fbWrite_wf {m : Memory} {i : Nat} (v : Byte) (hi : i < 512) (h : Memory.wf 512 m = true) :
    Memory.wf 512 (fbWrite m i v) = true := Memory.wf_put v hi h

theorem Memory.find_map_zero {l : List Nat} {i : Nat} (h : i ∈ l) :
    Memory.find (l.map fun i => (i, 0x00#8)) i = some 0x00#8 := by
  induction l with
  | nil => simp at h
  | cons a l ih =>
    by_cases ha : i = a
    · simp [Memory.find, ha]
    · simp [Memory.find, ha, ih (by simpa [ha] using h)]

theorem fbRead_clearedFb {i : Nat} (h : i < 512) : fbRead clearedFb i = 0x00#8 := by
  unfold fbRead clearedFb
  rw [Memory.find_map_zero (List.mem_range.mpr h), Option.getD_some]

theorem Memory.wf_map_zero (size n k : Nat) (h : k + n ≤ size) :
    Memory.wf size ((List.range' k n).map fun i => (i, 0x00#8)) = true := by
  induction n generalizing k with
  | zero => rfl
  | succ n ih =>
    rw [List.range'_succ, List.map_cons]
    refine Memory.wf_cons.mpr ⟨by simp; omega, ?_, ih (k + 1) (by omega)⟩
    simp only [List.mem_map, List.mem_range']
    rintro d ⟨i, ⟨j, hj, rfl⟩, rfl⟩
    simp only
    omega

theorem clearedFb_wf : Memory.wf 512 clearedFb = true := by
  unfold clearedFb
  rw [List.range_eq_range']
  exact Memory.wf_map_zero 512 512 0 (by omega)

/-! ## The display RAM -/

@[simp] theorem gddramRead_gddramWrite_same (m : Memory) (p c : Nat) (v : Byte) :
    gddramRead (gddramWrite m p c v) p c = v := by
  simp [gddramRead, gddramWrite]

theorem gddramRead_gddramWrite_other (m : Memory) {p c q d : Nat} (v : Byte) (h : gddramAddr q d ≠ gddramAddr p c) :
    gddramRead (gddramWrite m p c v) q d = gddramRead m q d := by
  simp [gddramRead, gddramWrite, Memory.find_put_other m v h]

/-- The pointer's widths keep its address inside the display RAM. -/
theorem gddramAddr_lt (p : BitVec 3) (c : BitVec 7) : gddramAddr p.toNat c.toNat < 1024 := by
  have hp := p.isLt
  have hc := c.isLt
  unfold gddramAddr
  omega

theorem gddramWrite_wf {m : Memory} (p : BitVec 3) (c : BitVec 7) (v : Byte) (h : Memory.wf 1024 m = true) :
    Memory.wf 1024 (gddramWrite m p.toNat c.toNat v) = true := Memory.wf_put v (gddramAddr_lt p c) h

end Sys2Proof.Machine
end

