-- ==== Sys2Proof/Laws/State.lean ====
section
/-! SUPPORT. One lemma per field per update of State, true by rfl; and each update commutes with exchanging PANEL. -/

namespace Sys2Proof.Machine

@[simp] theorem State.setFb_fb (s : State) (m : Memory) : (s.setFb m).fb = m := rfl
@[simp] theorem State.setFb_latch (s : State) (m : Memory) : (s.setFb m).latch = s.latch := rfl
@[simp] theorem State.setFb_slaveAddr (s : State) (m : Memory) : (s.setFb m).slaveAddr = s.slaveAddr := rfl
@[simp] theorem State.setFb_seq (s : State) (m : Memory) : (s.setFb m).seq = s.seq := rfl
@[simp] theorem State.setFb_tlog (s : State) (m : Memory) : (s.setFb m).tlog = s.tlog := rfl
@[simp] theorem State.setFb_results (s : State) (m : Memory) : (s.setFb m).results = s.results := rfl
@[simp] theorem State.setFb_panel (s : State) (m : Memory) : (s.setFb m).panel = s.panel := rfl
@[simp] theorem State.setFb_params (s : State) (m : Memory) : (s.setFb m).params = s.params := rfl
@[simp] theorem State.setFb_hostIn (s : State) (m : Memory) : (s.setFb m).hostIn = s.hostIn := rfl
@[simp] theorem State.setFb_replies (s : State) (m : Memory) : (s.setFb m).replies = s.replies := rfl
@[simp] theorem State.setFb_txDraws (s : State) (m : Memory) : (s.setFb m).txDraws = s.txDraws := rfl

@[simp] theorem State.setLatch_fb (s : State) (v : Bool) : (s.setLatch v).fb = s.fb := rfl
@[simp] theorem State.setLatch_latch (s : State) (v : Bool) : (s.setLatch v).latch = v := rfl
@[simp] theorem State.setLatch_slaveAddr (s : State) (v : Bool) : (s.setLatch v).slaveAddr = s.slaveAddr := rfl
@[simp] theorem State.setLatch_seq (s : State) (v : Bool) : (s.setLatch v).seq = s.seq := rfl
@[simp] theorem State.setLatch_tlog (s : State) (v : Bool) : (s.setLatch v).tlog = s.tlog := rfl
@[simp] theorem State.setLatch_results (s : State) (v : Bool) : (s.setLatch v).results = s.results := rfl
@[simp] theorem State.setLatch_panel (s : State) (v : Bool) : (s.setLatch v).panel = s.panel := rfl
@[simp] theorem State.setLatch_params (s : State) (v : Bool) : (s.setLatch v).params = s.params := rfl
@[simp] theorem State.setLatch_hostIn (s : State) (v : Bool) : (s.setLatch v).hostIn = s.hostIn := rfl
@[simp] theorem State.setLatch_replies (s : State) (v : Bool) : (s.setLatch v).replies = s.replies := rfl
@[simp] theorem State.setLatch_txDraws (s : State) (v : Bool) : (s.setLatch v).txDraws = s.txDraws := rfl

@[simp] theorem State.setSeq_fb (s : State) (q : Seq) : (s.setSeq q).fb = s.fb := rfl
@[simp] theorem State.setSeq_latch (s : State) (q : Seq) : (s.setSeq q).latch = s.latch := rfl
@[simp] theorem State.setSeq_slaveAddr (s : State) (q : Seq) : (s.setSeq q).slaveAddr = s.slaveAddr := rfl
@[simp] theorem State.setSeq_seq (s : State) (q : Seq) : (s.setSeq q).seq = q := rfl
@[simp] theorem State.setSeq_tlog (s : State) (q : Seq) : (s.setSeq q).tlog = s.tlog := rfl
@[simp] theorem State.setSeq_results (s : State) (q : Seq) : (s.setSeq q).results = s.results := rfl
@[simp] theorem State.setSeq_panel (s : State) (q : Seq) : (s.setSeq q).panel = s.panel := rfl
@[simp] theorem State.setSeq_params (s : State) (q : Seq) : (s.setSeq q).params = s.params := rfl
@[simp] theorem State.setSeq_hostIn (s : State) (q : Seq) : (s.setSeq q).hostIn = s.hostIn := rfl
@[simp] theorem State.setSeq_replies (s : State) (q : Seq) : (s.setSeq q).replies = s.replies := rfl
@[simp] theorem State.setSeq_txDraws (s : State) (q : Seq) : (s.setSeq q).txDraws = s.txDraws := rfl

@[simp] theorem State.onPanel_fb (s : State) (f : Panel → Panel) : (s.onPanel f).fb = s.fb := rfl
@[simp] theorem State.onPanel_latch (s : State) (f : Panel → Panel) : (s.onPanel f).latch = s.latch := rfl
@[simp] theorem State.onPanel_slaveAddr (s : State) (f : Panel → Panel) : (s.onPanel f).slaveAddr = s.slaveAddr := rfl
@[simp] theorem State.onPanel_seq (s : State) (f : Panel → Panel) : (s.onPanel f).seq = s.seq := rfl
@[simp] theorem State.onPanel_tlog (s : State) (f : Panel → Panel) : (s.onPanel f).tlog = s.tlog := rfl
@[simp] theorem State.onPanel_results (s : State) (f : Panel → Panel) : (s.onPanel f).results = s.results := rfl
@[simp] theorem State.onPanel_panel (s : State) (f : Panel → Panel) : (s.onPanel f).panel = f s.panel := rfl
@[simp] theorem State.onPanel_params (s : State) (f : Panel → Panel) : (s.onPanel f).params = s.params := rfl
@[simp] theorem State.onPanel_hostIn (s : State) (f : Panel → Panel) : (s.onPanel f).hostIn = s.hostIn := rfl
@[simp] theorem State.onPanel_replies (s : State) (f : Panel → Panel) : (s.onPanel f).replies = s.replies := rfl
@[simp] theorem State.onPanel_txDraws (s : State) (f : Panel → Panel) : (s.onPanel f).txDraws = s.txDraws := rfl

@[simp] theorem State.logTx_fb (s : State) (t : Tx) : (s.logTx t).fb = s.fb := rfl
@[simp] theorem State.logTx_latch (s : State) (t : Tx) : (s.logTx t).latch = s.latch := rfl
@[simp] theorem State.logTx_slaveAddr (s : State) (t : Tx) : (s.logTx t).slaveAddr = s.slaveAddr := rfl
@[simp] theorem State.logTx_seq (s : State) (t : Tx) : (s.logTx t).seq = s.seq := rfl
@[simp] theorem State.logTx_tlog (s : State) (t : Tx) : (s.logTx t).tlog = s.tlog ++ [t] := rfl
@[simp] theorem State.logTx_results (s : State) (t : Tx) : (s.logTx t).results = s.results := rfl
@[simp] theorem State.logTx_panel (s : State) (t : Tx) : (s.logTx t).panel = s.panel := rfl
@[simp] theorem State.logTx_params (s : State) (t : Tx) : (s.logTx t).params = s.params := rfl
@[simp] theorem State.logTx_hostIn (s : State) (t : Tx) : (s.logTx t).hostIn = s.hostIn := rfl
@[simp] theorem State.logTx_replies (s : State) (t : Tx) : (s.logTx t).replies = s.replies := rfl
@[simp] theorem State.logTx_txDraws (s : State) (t : Tx) : (s.logTx t).txDraws = s.txDraws := rfl

@[simp] theorem State.setHostIn_fb (s : State) (bs : List Byte) : (s.setHostIn bs).fb = s.fb := rfl
@[simp] theorem State.setHostIn_latch (s : State) (bs : List Byte) : (s.setHostIn bs).latch = s.latch := rfl
@[simp] theorem State.setHostIn_slaveAddr (s : State) (bs : List Byte) : (s.setHostIn bs).slaveAddr = s.slaveAddr := rfl
@[simp] theorem State.setHostIn_seq (s : State) (bs : List Byte) : (s.setHostIn bs).seq = s.seq := rfl
@[simp] theorem State.setHostIn_tlog (s : State) (bs : List Byte) : (s.setHostIn bs).tlog = s.tlog := rfl
@[simp] theorem State.setHostIn_results (s : State) (bs : List Byte) : (s.setHostIn bs).results = s.results := rfl
@[simp] theorem State.setHostIn_panel (s : State) (bs : List Byte) : (s.setHostIn bs).panel = s.panel := rfl
@[simp] theorem State.setHostIn_params (s : State) (bs : List Byte) : (s.setHostIn bs).params = s.params := rfl
@[simp] theorem State.setHostIn_hostIn (s : State) (bs : List Byte) : (s.setHostIn bs).hostIn = bs := rfl
@[simp] theorem State.setHostIn_replies (s : State) (bs : List Byte) : (s.setHostIn bs).replies = s.replies := rfl
@[simp] theorem State.setHostIn_txDraws (s : State) (bs : List Byte) : (s.setHostIn bs).txDraws = s.txDraws := rfl

@[simp] theorem State.ret_fb (s : State) (r : OpResult) : (s.ret r).fb = s.fb := rfl
@[simp] theorem State.ret_latch (s : State) (r : OpResult) : (s.ret r).latch = s.latch := rfl
@[simp] theorem State.ret_slaveAddr (s : State) (r : OpResult) : (s.ret r).slaveAddr = s.slaveAddr := rfl
@[simp] theorem State.ret_seq (s : State) (r : OpResult) : (s.ret r).seq = s.seq := rfl
@[simp] theorem State.ret_tlog (s : State) (r : OpResult) : (s.ret r).tlog = s.tlog := rfl
@[simp] theorem State.ret_results (s : State) (r : OpResult) : (s.ret r).results = s.results ++ [r] := rfl
@[simp] theorem State.ret_panel (s : State) (r : OpResult) : (s.ret r).panel = s.panel := rfl
@[simp] theorem State.ret_params (s : State) (r : OpResult) : (s.ret r).params = s.params := rfl
@[simp] theorem State.ret_hostIn (s : State) (r : OpResult) : (s.ret r).hostIn = s.hostIn := rfl
@[simp] theorem State.ret_replies (s : State) (r : OpResult) : (s.ret r).replies = s.replies := rfl
@[simp] theorem State.ret_txDraws (s : State) (r : OpResult) : (s.ret r).txDraws = s.txDraws := rfl

@[simp] theorem State.raise_fb (s : State) (e : PanelError) : (s.raise e).fb = s.fb := rfl
@[simp] theorem State.raise_latch (s : State) (e : PanelError) : (s.raise e).latch = s.latch := rfl
@[simp] theorem State.raise_slaveAddr (s : State) (e : PanelError) : (s.raise e).slaveAddr = s.slaveAddr := rfl
@[simp] theorem State.raise_seq (s : State) (e : PanelError) : (s.raise e).seq = .idle := rfl
@[simp] theorem State.raise_tlog (s : State) (e : PanelError) : (s.raise e).tlog = s.tlog := rfl
@[simp] theorem State.raise_results (s : State) (e : PanelError) : (s.raise e).results = s.results ++ [.err e] := rfl
@[simp] theorem State.raise_panel (s : State) (e : PanelError) : (s.raise e).panel = s.panel := rfl
@[simp] theorem State.raise_params (s : State) (e : PanelError) : (s.raise e).params = s.params := rfl
@[simp] theorem State.raise_hostIn (s : State) (e : PanelError) : (s.raise e).hostIn = s.hostIn := rfl
@[simp] theorem State.raise_replies (s : State) (e : PanelError) : (s.raise e).replies = s.replies := rfl
@[simp] theorem State.raise_txDraws (s : State) (e : PanelError) : (s.raise e).txDraws = s.txDraws := rfl

@[simp] theorem State.setRx_fb (s : State) (bs : List Byte) : (s.setRx bs).fb = s.fb := rfl
@[simp] theorem State.setRx_latch (s : State) (bs : List Byte) : (s.setRx bs).latch = s.latch := rfl
@[simp] theorem State.setRx_slaveAddr (s : State) (bs : List Byte) : (s.setRx bs).slaveAddr = s.slaveAddr := rfl
@[simp] theorem State.setRx_seq (s : State) (bs : List Byte) : (s.setRx bs).seq = s.seq := rfl
@[simp] theorem State.setRx_tlog (s : State) (bs : List Byte) : (s.setRx bs).tlog = s.tlog := rfl
@[simp] theorem State.setRx_results (s : State) (bs : List Byte) : (s.setRx bs).results = s.results := rfl
@[simp] theorem State.setRx_panel (s : State) (bs : List Byte) : (s.setRx bs).panel = { s.panel with rx := bs } := rfl
@[simp] theorem State.setRx_params (s : State) (bs : List Byte) : (s.setRx bs).params = s.params := rfl
@[simp] theorem State.setRx_hostIn (s : State) (bs : List Byte) : (s.setRx bs).hostIn = s.hostIn := rfl
@[simp] theorem State.setRx_replies (s : State) (bs : List Byte) : (s.setRx bs).replies = s.replies := rfl
@[simp] theorem State.setRx_txDraws (s : State) (bs : List Byte) : (s.setRx bs).txDraws = s.txDraws := rfl

@[simp] theorem State.markRefused_fb (s : State) (r : Refusal) : (s.markRefused r).fb = s.fb := rfl
@[simp] theorem State.markRefused_latch (s : State) (r : Refusal) : (s.markRefused r).latch = s.latch := rfl
@[simp] theorem State.markRefused_slaveAddr (s : State) (r : Refusal) : (s.markRefused r).slaveAddr = s.slaveAddr := rfl
@[simp] theorem State.markRefused_seq (s : State) (r : Refusal) : (s.markRefused r).seq = s.seq := rfl
@[simp] theorem State.markRefused_tlog (s : State) (r : Refusal) : (s.markRefused r).tlog = s.tlog := rfl
@[simp] theorem State.markRefused_results (s : State) (r : Refusal) : (s.markRefused r).results = s.results := rfl
@[simp] theorem State.markRefused_panel (s : State) (r : Refusal) : (s.markRefused r).panel = { s.panel with refused := some r, rx := [] } := rfl
@[simp] theorem State.markRefused_params (s : State) (r : Refusal) : (s.markRefused r).params = s.params := rfl
@[simp] theorem State.markRefused_hostIn (s : State) (r : Refusal) : (s.markRefused r).hostIn = s.hostIn := rfl
@[simp] theorem State.markRefused_replies (s : State) (r : Refusal) : (s.markRefused r).replies = s.replies := rfl
@[simp] theorem State.markRefused_txDraws (s : State) (r : Refusal) : (s.markRefused r).txDraws = s.txDraws := rfl

@[simp] theorem State.withPanel_fb (s : State) (p : Panel) : (s.withPanel p).fb = s.fb := rfl
@[simp] theorem State.withPanel_latch (s : State) (p : Panel) : (s.withPanel p).latch = s.latch := rfl
@[simp] theorem State.withPanel_slaveAddr (s : State) (p : Panel) : (s.withPanel p).slaveAddr = s.slaveAddr := rfl
@[simp] theorem State.withPanel_seq (s : State) (p : Panel) : (s.withPanel p).seq = s.seq := rfl
@[simp] theorem State.withPanel_tlog (s : State) (p : Panel) : (s.withPanel p).tlog = s.tlog := rfl
@[simp] theorem State.withPanel_results (s : State) (p : Panel) : (s.withPanel p).results = s.results := rfl
@[simp] theorem State.withPanel_panel (s : State) (p : Panel) : (s.withPanel p).panel = p := rfl
@[simp] theorem State.withPanel_params (s : State) (p : Panel) : (s.withPanel p).params = s.params := rfl
@[simp] theorem State.withPanel_hostIn (s : State) (p : Panel) : (s.withPanel p).hostIn = s.hostIn := rfl
@[simp] theorem State.withPanel_replies (s : State) (p : Panel) : (s.withPanel p).replies = s.replies := rfl
@[simp] theorem State.withPanel_txDraws (s : State) (p : Panel) : (s.withPanel p).txDraws = s.txDraws := rfl

@[simp] theorem State.dropReply_fb (s : State) : s.dropReply.fb = s.fb := by
  unfold State.dropReply; split <;> rfl
@[simp] theorem State.dropReply_latch (s : State) : s.dropReply.latch = s.latch := by
  unfold State.dropReply; split <;> rfl
@[simp] theorem State.dropReply_slaveAddr (s : State) : s.dropReply.slaveAddr = s.slaveAddr := by
  unfold State.dropReply; split <;> rfl
@[simp] theorem State.dropReply_seq (s : State) : s.dropReply.seq = s.seq := by
  unfold State.dropReply; split <;> rfl
@[simp] theorem State.dropReply_tlog (s : State) : s.dropReply.tlog = s.tlog := by
  unfold State.dropReply; split <;> rfl
@[simp] theorem State.dropReply_results (s : State) : s.dropReply.results = s.results := by
  unfold State.dropReply; split <;> rfl
@[simp] theorem State.dropReply_panel (s : State) : s.dropReply.panel = s.panel := by
  unfold State.dropReply; split <;> rfl
@[simp] theorem State.dropReply_params (s : State) : s.dropReply.params = s.params := by
  unfold State.dropReply; split <;> rfl
@[simp] theorem State.dropReply_hostIn (s : State) : s.dropReply.hostIn = s.hostIn := by
  unfold State.dropReply; split <;> rfl

@[simp] theorem State.setFb_withPanel (s : State) (m : Memory) (p : Panel) : (s.withPanel p).setFb m = (s.setFb m).withPanel p := rfl
@[simp] theorem State.setLatch_withPanel (s : State) (v : Bool) (p : Panel) : (s.withPanel p).setLatch v = (s.setLatch v).withPanel p := rfl
@[simp] theorem State.setSeq_withPanel (s : State) (q : Seq) (p : Panel) : (s.withPanel p).setSeq q = (s.setSeq q).withPanel p := rfl
@[simp] theorem State.logTx_withPanel (s : State) (t : Tx) (p : Panel) : (s.withPanel p).logTx t = (s.logTx t).withPanel p := rfl
@[simp] theorem State.setHostIn_withPanel (s : State) (bs : List Byte) (p : Panel) : (s.withPanel p).setHostIn bs = (s.setHostIn bs).withPanel p := rfl
@[simp] theorem State.ret_withPanel (s : State) (r : OpResult) (p : Panel) : (s.withPanel p).ret r = (s.ret r).withPanel p := rfl
@[simp] theorem State.raise_withPanel (s : State) (e : PanelError) (p : Panel) : (s.withPanel p).raise e = (s.raise e).withPanel p := rfl

@[simp] theorem State.dropReply_withPanel (s : State) (p : Panel) : (s.withPanel p).dropReply = s.dropReply.withPanel p := by
  unfold State.dropReply; split <;> simp_all [State.withPanel]

@[simp] theorem State.upcoming_withPanel (s : State) (p : Panel) (j : Nat) : (s.withPanel p).upcoming j = s.upcoming j := rfl

@[simp] theorem State.withPanel_self (s : State) : s.withPanel s.panel = s := rfl

@[simp] theorem State.withPanel_withPanel (s : State) (p q : Panel) : (s.withPanel p).withPanel q = s.withPanel q := rfl

theorem State.onPanel_eq_withPanel (s : State) (f : Panel → Panel) : s.onPanel f = s.withPanel (f s.panel) := rfl

/-- The replies still to come after one has been used. -/
theorem State.upcoming_dropReply (s : State) (j : Nat) : s.dropReply.upcoming j = s.upcoming (j + 1) := by
  unfold State.dropReply State.upcoming
  split
  · next r rs h => simp [h]
  · next h => simp [h, Nat.add_assoc, Nat.add_comm 1 j]

end Sys2Proof.Machine
end

