-- ==== Sys2Proof/Laws/Panel.lean ====
section
/-! SUPPORT. PANEL: what its steps can do. They change PANEL alone, they keep the display RAM in canonical form, they use up the
bytes received; and what a run of data bytes writes. -/

namespace Sys2Proof.Machine

/-! ## PANEL's steps are the instructions' meanings -/

/-- At PANEL's ports its dispatch is the machine's. -/
theorem panelExec_eq_exec {i : Instr} (s : State) (h : i.port ≠ .host) : panelExec i s = exec i s := by
  cases i <;> simp_all [Instr.port, panelExec, exec]

/-- A decoded control byte or command leaves fewer bytes. -/
theorem decode_panel_length {pt : Port} (hp : pt ≠ .host) {bs rest : List Byte} {i : Instr} (h : decode pt bs = .ok (i, rest)) :
    rest.length < bs.length := by
  have hlen : 0 < (encode i).length := by cases i <;> simp [encode]
  cases pt with
  | host => exact absurd rfl hp
  | control =>
    obtain ⟨-, -, rfl⟩ := decodeControl_ok h
    simp only [List.length_append]
    omega
  | command =>
    obtain ⟨-, -, rfl⟩ := decodeCommand_ok h
    simp only [List.length_append]
    omega

/-! ## What one step of PANEL can do -/

/-- A control byte or a command, if it answers a next state, changes PANEL alone: not its received bytes, not the refusal mark, not
the display RAM. -/
theorem panelExec_next {i : Instr} {s t : State} (h : panelExec i s = .next t) :
    t = s.withPanel t.panel ∧ t.panel.rx = s.panel.rx ∧ t.panel.refused = s.panel.refused ∧ t.panel.gddram = s.panel.gddram ∧
      t.panel.draws = s.panel.draws := by
  cases i <;>
    simp only [panelExec, execDisplayOff, execSetClockDiv, execSetMultiplex, execSetDisplayOffset, execSetStartLine0,
      execChargePump, execSetAddrMode, execSegRemap, execComScanDec, execSetComPins, execSetContrast, execSetPrecharge,
      execSetVcomh, execEntireDisplayResume, execNormalDisplay, execDisplayOn, execSetColumnRange, execSetPageRange,
      execCtrlCommand, execCtrlData, Host.Outcome.next.injEq, reduceCtorEq] at h
  all_goals first
    | (subst h; exact ⟨rfl, rfl, rfl, rfl, rfl⟩)
    | (split at h
       · simp only [Host.Outcome.next.injEq] at h; subst h; exact ⟨rfl, rfl, rfl, rfl, rfl⟩
       · simp at h)

theorem Panel.nextPage_frame (p : Panel) :
    p.nextPage.rx = p.rx ∧ p.nextPage.refused = p.refused ∧ p.nextPage.gddram = p.gddram ∧ p.nextPage.mode = p.mode ∧
      p.nextPage.addrMode = p.addrMode := by
  unfold Panel.nextPage
  split
  · exact ⟨rfl, rfl, rfl, rfl, rfl⟩
  · split <;> exact ⟨rfl, rfl, rfl, rfl, rfl⟩

/-- Moving the pointer touches neither the received bytes, the mark, the RAM nor the modes. -/
theorem Panel.advance_frame (p : Panel) :
    p.advance.rx = p.rx ∧ p.advance.refused = p.refused ∧ p.advance.gddram = p.gddram ∧ p.advance.mode = p.mode ∧
      p.advance.addrMode = p.addrMode := by
  unfold Panel.advance
  split
  · exact Panel.nextPage_frame _
  · split <;> exact ⟨rfl, rfl, rfl, rfl, rfl⟩

theorem Panel.drawRegister_frame (cmd : Byte) (p : Panel) :
    (p.drawRegister cmd).rx = p.rx ∧ (p.drawRegister cmd).refused = p.refused ∧ (p.drawRegister cmd).gddram = p.gddram := by
  unfold Panel.drawRegister
  by_cases hD5 : cmd = 0xD5#8
  · rw [if_pos hD5]; exact ⟨rfl, rfl, rfl⟩
  rw [if_neg hD5]
  by_cases hA8 : cmd = 0xA8#8
  · rw [if_pos hA8]; exact ⟨rfl, rfl, rfl⟩
  rw [if_neg hA8]
  by_cases hD3 : cmd = 0xD3#8
  · rw [if_pos hD3]; exact ⟨rfl, rfl, rfl⟩
  rw [if_neg hD3]
  by_cases h8D : cmd = 0x8D#8
  · rw [if_pos h8D]; exact ⟨rfl, rfl, rfl⟩
  rw [if_neg h8D]
  by_cases h20 : cmd = 0x20#8
  · rw [if_pos h20]; exact ⟨rfl, rfl, rfl⟩
  rw [if_neg h20]
  by_cases hDA : cmd = 0xDA#8
  · rw [if_pos hDA]; exact ⟨rfl, rfl, rfl⟩
  rw [if_neg hDA]
  by_cases h81 : cmd = 0x81#8
  · rw [if_pos h81]; exact ⟨rfl, rfl, rfl⟩
  rw [if_neg h81]
  by_cases hD9 : cmd = 0xD9#8
  · rw [if_pos hD9]; exact ⟨rfl, rfl, rfl⟩
  rw [if_neg hD9]
  by_cases hDB : cmd = 0xDB#8
  · rw [if_pos hDB]; exact ⟨rfl, rfl, rfl⟩
  rw [if_neg hDB]
  by_cases h21 : cmd = 0x21#8
  · rw [if_pos h21]; exact ⟨rfl, rfl, rfl⟩
  rw [if_neg h21]
  by_cases h22 : cmd = 0x22#8
  · rw [if_pos h22]; exact ⟨rfl, rfl, rfl⟩
  rw [if_neg h22]
  exact ⟨rfl, rfl, rfl⟩

/-- A display-data byte, if it answers a next state. -/
theorem panelData_next {d : Byte} {s t : State} (h : panelData d s = .next t) :
    t = s.withPanel (s.panel.store d).advance ∧ s.panel.addrMode = 0x00#8 := by
  unfold panelData at h
  split at h
  · next ha => simp only [Host.Outcome.next.injEq] at h; exact ⟨h.symm, ha⟩
  · simp at h

/-- One step of PANEL that had bytes to act on, if it answers a next state: PANEL alone changes, it has fewer bytes left, no mark is
set, and the display RAM stays in canonical form. -/
theorem panelStep_next {s t : State} (h : panelStep s = .next t) :
    t = s.withPanel t.panel ∧ (s.panel.rx ≠ [] → t.panel.rx.length < s.panel.rx.length) ∧
      (Memory.wf 1024 s.panel.gddram = true → Memory.wf 1024 t.panel.gddram = true) := by
  unfold panelStep at h
  split at h
  · simp at h
  · split at h
    · next hrx => simp only [Host.Outcome.next.injEq] at h; subst h; exact ⟨rfl, fun hn => absurd hrx hn, id⟩
    · next b bs hrx =>
      split at h
      · unfold panelControl at h
        split at h
        · next i rest hd =>
          obtain ⟨h1, h2, -, h3, -⟩ := panelExec_next h
          refine ⟨h1, fun _ => ?_, fun hw => by rw [h3]; exact hw⟩
          rw [h2, hrx]; exact decode_panel_length (by decide) hd
        · simp at h
      · unfold panelCommand at h
        split at h
        · next i rest hd =>
          obtain ⟨h1, h2, -, h3, -⟩ := panelExec_next h
          refine ⟨h1, fun _ => ?_, fun hw => by rw [h3]; exact hw⟩
          rw [h2, hrx]; exact decode_panel_length (by decide) hd
        · simp only [Host.Outcome.next.injEq] at h; subst h
          refine ⟨rfl, fun _ => by simp [hrx], fun hw => ?_⟩
          simp [(Panel.drawRegister_frame _ _).2.2, hw]
        · simp at h
      · obtain ⟨h1, -⟩ := panelData_next h
        subst h1
        obtain ⟨f1, -, f3, -, -⟩ := Panel.advance_frame ((s.setRx bs).panel.store b)
        refine ⟨rfl, fun _ => ?_, fun hw => ?_⟩
        · simp only [State.setRx_panel, Panel.store] at f1
          simp [f1, Panel.store, hrx]
        · simp only [State.withPanel_panel, f3]
          exact gddramWrite_wf _ _ _ hw

/-- A run of PANEL's steps changes PANEL alone and keeps the display RAM in canonical form. -/
theorem panelRun_frame (n : Nat) (s : State) :
    panelRun n s = s.withPanel (panelRun n s).panel ∧
      (Memory.wf 1024 s.panel.gddram = true → Memory.wf 1024 (panelRun n s).panel.gddram = true) := by
  induction n generalizing s with
  | zero => exact ⟨rfl, id⟩
  | succ n ih =>
    unfold panelRun
    split
    · exact ⟨rfl, id⟩
    · split
      · next t ht =>
        obtain ⟨h1, -, h2⟩ := panelStep_next ht
        obtain ⟨i1, i2⟩ := ih t
        refine ⟨?_, fun hw => i2 (h2 hw)⟩
        rw [i1, h1]
        simp
      · exact ⟨rfl, id⟩
      · exact ⟨rfl, id⟩

/-- Enough steps use up every byte received. -/
theorem panelRun_rx (n : Nat) (s : State) (h : s.panel.rx.length ≤ n) : (panelRun n s).panel.rx = [] := by
  induction n generalizing s with
  | zero => exact List.length_eq_zero_iff.mp (Nat.le_zero.mp h)
  | succ n ih =>
    unfold panelRun
    split
    · next hrx => exact hrx
    · next b bs hrx =>
      split
      · next t ht =>
        obtain ⟨-, h2, -⟩ := panelStep_next ht
        exact ih t (by have := h2 (by simp [hrx]); omega)
      · rfl
      · next f _ => cases f

/-- Receiving a transaction changes PANEL alone and keeps the display RAM in canonical form (R39: "side effects on PANEL and none on
BLOCK's state"). -/
theorem panelReceive_frame (bytes : List Byte) (s : State) :
    panelReceive bytes s = s.withPanel (panelReceive bytes s).panel ∧
      (Memory.wf 1024 s.panel.gddram = true → Memory.wf 1024 (panelReceive bytes s).panel.gddram = true) := by
  unfold panelReceive
  split
  · exact ⟨rfl, id⟩
  · obtain ⟨h1, h2⟩ := panelRun_frame bytes.length (s.onPanel fun p => { p with mode := none, rx := bytes })
    exact ⟨by rw [h1]; rfl, h2⟩

/-- After a transaction nothing is left to act on. -/
theorem panelReceive_rx (bytes : List Byte) (s : State) (h : s.panel.rx = []) : (panelReceive bytes s).panel.rx = [] := by
  unfold panelReceive
  split
  · exact h
  · exact panelRun_rx _ _ (by simp)

/-! ## A run of data bytes -/

/-- The effect on PANEL of a run of display-data bytes in horizontal addressing mode (R105). -/
def Panel.storeAll (p : Panel) : List Byte → Panel
  | [] => p
  | d :: ds => Panel.storeAll (p.store d).advance ds

/-- PANEL with other bytes still to act on. -/
def Panel.withRx (p : Panel) (bs : List Byte) : Panel := { p with rx := bs }

theorem Panel.nextPage_withRx (p : Panel) (bs : List Byte) : (p.withRx bs).nextPage = p.nextPage.withRx bs := by
  unfold Panel.nextPage
  by_cases h : p.pagePtr = p.pageEnd
  · rw [if_pos h, if_pos (by exact h)]; rfl
  rw [if_neg h, if_neg (by exact h)]
  by_cases h7 : p.pagePtr = 7#3
  · rw [if_pos h7, if_pos (by exact h7)]; rfl
  · rw [if_neg h7, if_neg (by exact h7)]; rfl

/-- The bytes still to act on play no part in moving the pointer. -/
theorem Panel.advance_withRx (p : Panel) (bs : List Byte) : (p.withRx bs).advance = p.advance.withRx bs := by
  unfold Panel.advance
  by_cases h : p.colPtr = p.colEnd
  · rw [if_pos h, if_pos (by exact h)]; exact Panel.nextPage_withRx { p with colPtr := p.colStart } bs
  rw [if_neg h, if_neg (by exact h)]
  by_cases h127 : p.colPtr = 127#7
  · rw [if_pos h127, if_pos (by exact h127)]; rfl
  · rw [if_neg h127, if_neg (by exact h127)]; rfl

/-- The bytes still to act on play no part in storing. -/
theorem Panel.storeAll_withRx (ds : List Byte) (p : Panel) (bs : List Byte) :
    (p.withRx bs).storeAll ds = (p.storeAll ds).withRx bs := by
  induction ds generalizing p with
  | nil => rfl
  | cons d ds ih =>
    unfold Panel.storeAll
    rw [show (p.withRx bs).store d = (p.store d).withRx bs from rfl, Panel.advance_withRx, ih]

/-- In data mode, horizontal addressing, PANEL stores every byte it has received (R84, R105). -/
theorem panelRun_data (ds : List Byte) (s : State) (hr : s.panel.refused = none) (hm : s.panel.mode = some .data)
    (ha : s.panel.addrMode = 0x00#8) (hx : s.panel.rx = ds) :
    panelRun ds.length s = s.withPanel ((s.panel.storeAll ds).withRx []) := by
  induction ds generalizing s with
  | nil =>
    show s = s.withPanel (s.panel.withRx [])
    rw [Panel.withRx, ← hx]
    rfl
  | cons d ds ih =>
    have hstep : panelStep s = .next (s.withPanel ((s.panel.withRx ds).store d).advance) := by
      unfold panelStep
      split
      · next r hs => rw [hr] at hs; cases hs
      · rw [hx, hm]
        show panelData d (s.setRx ds) = _
        unfold panelData
        rw [if_pos (by exact ha)]
        rfl
    obtain ⟨f1, f2, -, f4, f5⟩ := Panel.advance_frame ((s.panel.withRx ds).store d)
    have hrun : panelRun (d :: ds).length s = panelRun ds.length (s.withPanel ((s.panel.withRx ds).store d).advance) := by
      rw [List.length_cons, panelRun, hx]
      simp only [hstep]
    rw [hrun, ih _ (by rw [State.withPanel_panel, f2]; exact hr) (by rw [State.withPanel_panel, f4]; exact hm)
      (by rw [State.withPanel_panel, f5]; exact ha) (by rw [State.withPanel_panel, f1]; rfl)]
    rw [State.withPanel_panel, State.withPanel_withPanel,
      show (s.panel.withRx ds).store d = (s.panel.store d).withRx ds from rfl, Panel.advance_withRx, Panel.storeAll_withRx]
    rfl

end Sys2Proof.Machine
end

