-- ==== Sys2Proof/Laws/Driver.lean ====
section
/-! SUPPORT. The driver: what a transaction, INIT and FLUSH can change, which replies they use, and how the chunks cover the frame. -/

namespace Sys2Proof.Machine

/-! ## One transaction -/

/-- A transaction uses one reply, adds one entry to `TLOG`, and changes PANEL; nothing else (R39, R66). -/
theorem txWrite_eq (s : State) (bytes : List Byte) :
    txWrite s bytes = (s.dropReply.logTx ⟨s.slaveAddr, bytes, txAnswer s⟩).withPanel (txWrite s bytes).panel :=
  (panelReceive_frame _ _).1

@[simp] theorem txWrite_fb (s : State) (b : List Byte) : (txWrite s b).fb = s.fb := by rw [txWrite_eq]; simp
@[simp] theorem txWrite_latch (s : State) (b : List Byte) : (txWrite s b).latch = s.latch := by rw [txWrite_eq]; simp
@[simp] theorem txWrite_slaveAddr (s : State) (b : List Byte) : (txWrite s b).slaveAddr = s.slaveAddr := by rw [txWrite_eq]; simp
@[simp] theorem txWrite_seq (s : State) (b : List Byte) : (txWrite s b).seq = s.seq := by rw [txWrite_eq]; simp
@[simp] theorem txWrite_results (s : State) (b : List Byte) : (txWrite s b).results = s.results := by rw [txWrite_eq]; simp
@[simp] theorem txWrite_params (s : State) (b : List Byte) : (txWrite s b).params = s.params := by rw [txWrite_eq]; simp
@[simp] theorem txWrite_hostIn (s : State) (b : List Byte) : (txWrite s b).hostIn = s.hostIn := by rw [txWrite_eq]; simp
@[simp] theorem txWrite_tlog (s : State) (b : List Byte) :
    (txWrite s b).tlog = s.tlog ++ [⟨s.slaveAddr, b, txAnswer s⟩] := by rw [txWrite_eq]; simp

/-- The replies still to come after a transaction: one fewer. -/
@[simp] theorem txWrite_upcoming (s : State) (b : List Byte) (j : Nat) : (txWrite s b).upcoming j = s.upcoming (j + 1) := by
  rw [txWrite_eq, State.upcoming_withPanel]
  exact State.upcoming_dropReply s j

theorem txAnswer_txWrite (s : State) (b : List Byte) : txAnswer (txWrite s b) = (s.upcoming 1).answer := by
  rw [txAnswer, txWrite_upcoming]

@[simp] theorem txAnswer_setSeq (s : State) (q : Seq) : txAnswer (s.setSeq q) = txAnswer s := rfl

theorem State.upcoming_setSeq (s : State) (q : Seq) (j : Nat) : (s.setSeq q).upcoming j = s.upcoming j := rfl

/-- A transaction leaves PANEL nothing to act on. -/
theorem txWrite_rx (s : State) (b : List Byte) (h : s.panel.rx = []) : (txWrite s b).panel.rx = [] :=
  panelReceive_rx _ _ (by simp [h])

theorem txWrite_gddramWf (s : State) (b : List Byte) (h : Memory.wf 1024 s.panel.gddram = true) :
    Memory.wf 1024 (txWrite s b).panel.gddram = true :=
  (panelReceive_frame _ _).2 (by simp [h])

/-- What a transaction does outside PANEL does not depend on PANEL (R72). -/
theorem txWrite_withPanel (s : State) (b : List Byte) (p : Panel) :
    txWrite (s.withPanel p) b = (txWrite s b).withPanel (txWrite (s.withPanel p) b).panel := by
  conv_lhs => rw [txWrite_eq]
  conv_rhs => rw [txWrite_eq s]
  rw [State.dropReply_withPanel, State.withPanel_withPanel]
  rfl

/-- What PANEL receives of a transaction answered `Ok` is all of it (R69). -/
theorem txWrite_panel_ok (s : State) (b : List Byte) (h : txAnswer s = .ok) :
    (txWrite s b).panel = (panelReceive b (s.dropReply.logTx ⟨s.slaveAddr, b, txAnswer s⟩)).panel := by
  unfold txWrite deliveredBytes
  rw [show (s.upcoming 0).answer = .ok from h]

/-- A refused PANEL is left as it is by a transaction (log 14). -/
theorem txWrite_panel_refused (s : State) (b : List Byte) (r : Refusal) (h : s.panel.refused = some r) :
    (txWrite s b).panel = s.panel := by
  unfold txWrite panelReceive
  simp [h]

/-- The flush command transaction, received whole, sets the window and puts the pointer at its start (R103, R104). -/
theorem panelReceive_flushBytes (s : State) (h : s.panel.refused = none) :
    panelReceive flushBytes s = s.withPanel { s.panel with
      colStart := 0#7, colEnd := 127#7, colPtr := 0#7, pageStart := 0#3, pageEnd := 3#3, pagePtr := 0#3,
      mode := some .command, rx := [] } := by
  obtain ⟨fb, latch, slaveAddr, seq, tlog, results, p, params, hostIn, replies, txDraws⟩ := s
  obtain ⟨r1, r2, r3, r4, r5, r6, r7, r8, r9, r10, r11, r12, r13, r14, r15, g, c1, c2, c3, p1, p2, p3, m, x, f, d⟩ := p
  simp only at h
  subst h
  rfl

/-- A data transaction, received whole by a PANEL in horizontal addressing mode, stores its payload (R105). -/
theorem panelReceive_data (s : State) (ds : List Byte) (h : s.panel.refused = none) (ha : s.panel.addrMode = 0x00#8) :
    panelReceive (0x40#8 :: ds) s =
      s.withPanel ((Panel.storeAll { s.panel with mode := some .data, rx := ds } ds).withRx []) := by
  have h1 : panelReceive (0x40#8 :: ds) s =
      panelRun ds.length (s.withPanel { s.panel with mode := some .data, rx := ds }) := by
    obtain ⟨fb, latch, slaveAddr, seq, tlog, results, p, params, hostIn, replies, txDraws⟩ := s
    obtain ⟨r1, r2, r3, r4, r5, r6, r7, r8, r9, r10, r11, r12, r13, r14, r15, g, c1, c2, c3, p1, p2, p3, m, x, f, d⟩ := p
    simp only at h ha
    subst h
    rfl
  rw [h1, panelRun_data ds (s.withPanel { s.panel with mode := some .data, rx := ds }) h rfl ha rfl]
  rfl

/-! ## INIT -/

/-- INIT, whole: what it leaves outside PANEL (R79, R128). -/
theorem initOp_frame (s : State) :
    (initOp s).fb = s.fb ∧ (initOp s).slaveAddr = s.slaveAddr ∧ (initOp s).params = s.params ∧ (initOp s).hostIn = s.hostIn ∧
      (initOp s).seq = .idle ∧ (initOp s).tlog = s.tlog ++ [⟨s.slaveAddr, initBytes, txAnswer s⟩] ∧
      (initOp s).latch = (s.latch || decide (txAnswer s = .ok)) := by
  unfold initOp initEnd
  cases h : txAnswer s <;> simp [h]

/-- INIT's result (R79). -/
theorem initOp_results (s : State) :
    (initOp s).results = s.results ++ [match txAnswer s with | .ok => .ok | .err k => .err (.io k)] := by
  unfold initOp initEnd
  cases h : txAnswer s <;> simp

/-- INIT uses one reply. -/
theorem initOp_upcoming (s : State) (j : Nat) : (initOp s).upcoming j = s.upcoming (j + 1) := by
  have h : (initOp s).upcoming j = (txWrite (s.setSeq .initCmd) initBytes).upcoming j := by
    unfold initOp initEnd
    cases txAnswer s <;> rfl
  rw [h, txWrite_upcoming, State.upcoming_setSeq]

/-- What INIT leaves in PANEL is what its transaction leaves there. -/
theorem initOp_panel (s : State) : (initOp s).panel = (txWrite (s.setSeq .initCmd) initBytes).panel := by
  unfold initOp initEnd
  cases txAnswer s <;> rfl

/-! ## FLUSH -/

/-- The data loop when every reply it uses is `Ok`: one entry per chunk, and the result `Ok` (R80). -/
theorem flushChunks_ok (ks : List Nat) (s : State) (h : ∀ j, j < ks.length → (s.upcoming j).answer = .ok) :
    (flushChunks ks s).tlog = s.tlog ++ ks.map (fun k => ⟨s.slaveAddr, dataBytes s.params s.fb k, .ok⟩) ∧
      (flushChunks ks s).results = s.results ++ [.ok] := by
  induction ks generalizing s with
  | nil => simp [flushChunks]
  | cons k ks ih =>
    have h0 : txAnswer s = .ok := h 0 (by simp)
    unfold flushChunks
    rw [h0]
    have hi := ih (txWrite (s.setSeq (.flushData k)) (dataBytes s.params s.fb k)) fun j hj => by
      rw [txWrite_upcoming]
      exact h (j + 1) (by simpa using hj)
    simpa [h0] using hi

/-- FLUSH past the latch test when every reply it uses is `Ok` (R80). -/
theorem flushOp_ok (s : State) (hl : s.latch = true) (h : ∀ j, j ≤ chunkCount s.params → (s.upcoming j).answer = .ok) :
    (flushOp s).tlog = s.tlog ++ flushTxs s (chunkCount s.params) ∧ (flushOp s).results = s.results ++ [.ok] := by
  have h0 : txAnswer s = .ok := h 0 (Nat.zero_le _)
  unfold flushOp flushFrame
  rw [h0, State.ready, hl]
  have hc := flushChunks_ok (List.range (chunkCount s.params)) (txWrite (s.setSeq .flushCmd) flushBytes) fun j hj => by
    rw [txWrite_upcoming]
    exact h (j + 1) (by simpa using hj)
  simpa [h0, flushTxs] using hc

/-- FLUSH's data loop leaves everything but `TLOG`, the results, the replies and PANEL, and ends Idle (R80, R128). -/
theorem flushChunks_frame (ks : List Nat) (s : State) :
    (flushChunks ks s).fb = s.fb ∧ (flushChunks ks s).latch = s.latch ∧ (flushChunks ks s).slaveAddr = s.slaveAddr ∧
      (flushChunks ks s).params = s.params ∧ (flushChunks ks s).hostIn = s.hostIn ∧ (flushChunks ks s).seq = .idle := by
  induction ks generalizing s with
  | nil => simp [flushChunks]
  | cons k ks ih =>
    unfold flushChunks
    split
    · have h := ih (txWrite (s.setSeq (.flushData k)) (dataBytes s.params s.fb k))
      simpa using h
    · simp

/-- FLUSH leaves everything but `TLOG`, the results, the replies and PANEL, and ends Idle (R80, R128). -/
theorem flushOp_frame (s : State) :
    (flushOp s).fb = s.fb ∧ (flushOp s).latch = s.latch ∧ (flushOp s).slaveAddr = s.slaveAddr ∧
      (flushOp s).params = s.params ∧ (flushOp s).hostIn = s.hostIn ∧ (flushOp s).seq = .idle := by
  unfold flushOp
  split
  · unfold flushFrame
    split
    · simpa using flushChunks_frame (List.range (chunkCount s.params)) (txWrite (s.setSeq .flushCmd) flushBytes)
    · simp
  · simp

/-- A data loop whose replies are all `Ok` uses one reply a chunk. -/
theorem flushChunks_upcoming (ks : List Nat) (s : State) (h : ∀ j, j < ks.length → (s.upcoming j).answer = .ok) (j : Nat) :
    (flushChunks ks s).upcoming j = s.upcoming (j + ks.length) := by
  induction ks generalizing s with
  | nil => rfl
  | cons k ks ih =>
    have h0 : txAnswer s = .ok := h 0 (by simp)
    unfold flushChunks
    rw [h0]
    have hi := ih (txWrite (s.setSeq (.flushData k)) (dataBytes s.params s.fb k)) fun i hi => by
      rw [txWrite_upcoming]
      exact h (i + 1) (by simpa using hi)
    simp only [hi, txWrite_upcoming, State.upcoming_setSeq, List.length_cons, Nat.add_assoc]

/-- A FLUSH whose replies are all `Ok` uses `NCH + 1` of them. -/
theorem flushOp_upcoming (s : State) (hl : s.latch = true)
    (h : ∀ j, j ≤ chunkCount s.params → (s.upcoming j).answer = .ok) (j : Nat) :
    (flushOp s).upcoming j = s.upcoming (j + (chunkCount s.params + 1)) := by
  have h0 : txAnswer s = .ok := h 0 (Nat.zero_le _)
  unfold flushOp flushFrame
  rw [h0, State.ready, hl]
  have hc := flushChunks_upcoming (List.range (chunkCount s.params)) (txWrite (s.setSeq .flushCmd) flushBytes) (fun i hi => by
    rw [txWrite_upcoming]
    exact h (i + 1) (by simpa using hi)) j
  simpa [State.upcoming_setSeq, Nat.add_assoc] using hc

/-! ## Chunks -/

/-- A legal configuration, spelled out (R19, R42). -/
theorem params_wf_iff {p : Config.Params} :
    p.wf = true ↔ p.font.length = 1235 ∧ 1 ≤ p.dataChunk ∧ p.dataChunk ≤ 32 := by
  simp only [Config.Params.wf, Bool.and_eq_true, decide_eq_true_eq, and_assoc]
  exact Iff.rfl

/-- Chunk `k` begins inside the frame exactly when `k < NCH` (R76). -/
theorem chunk_start_lt {p : Config.Params} (h : p.wf = true) {k : Nat} : k < chunkCount p ↔ k * p.dataChunk < 512 := by
  obtain ⟨-, h1, -⟩ := params_wf_iff.mp h
  unfold chunkCount
  rw [Nat.lt_iff_add_one_le, Nat.le_div_iff_mul_le (by omega), Nat.succ_mul]
  omega

/-- There is at least one chunk. -/
theorem chunkCount_pos {p : Config.Params} (h : p.wf = true) : 0 < chunkCount p :=
  (chunk_start_lt h).mpr (by omega)

@[simp] theorem fbSlice_length (m : Memory) (lo hi : Nat) : (fbSlice m lo hi).length = hi - lo := by simp [fbSlice]

/-- A data transaction carries 1 to `DATA_CHUNK` bytes (R58, R75, R76). -/
theorem chunkBytes_length {p : Config.Params} (h : p.wf = true) (m : Memory) {k : Nat} (hk : k < chunkCount p) :
    1 ≤ (chunkBytes p m k).length ∧ (chunkBytes p m k).length ≤ p.dataChunk := by
  have hlt := (chunk_start_lt h).mp hk
  obtain ⟨-, h1, -⟩ := params_wf_iff.mp h
  simp only [chunkBytes, fbSlice_length]
  omega

/-- Consecutive slices join. -/
theorem fbSlice_append (m : Memory) {lo mid hi : Nat} (h1 : lo ≤ mid) (h2 : mid ≤ hi) :
    fbSlice m lo mid ++ fbSlice m mid hi = fbSlice m lo hi := by
  apply List.ext_getElem
  · simp; omega
  · intro i hi1 hi2
    simp only [List.getElem_append, fbSlice, List.getElem_map, List.getElem_range, List.length_map, List.length_range]
    split
    · rfl
    · congr 1; omega

/-- The first `n` chunks carry the first `min(512, n * DATA_CHUNK)` bytes of the frame. -/
theorem chunks_cover (p : Config.Params) (m : Memory) (n : Nat) :
    ((List.range n).map (chunkBytes p m)).flatten = fbSlice m 0 (min 512 (n * p.dataChunk)) := by
  induction n with
  | zero => simp [fbSlice]
  | succ n ih =>
    rw [List.range_succ, List.map_append, List.flatten_append, ih]
    simp only [List.map_cons, List.map_nil, List.flatten_cons, List.flatten_nil, List.append_nil, chunkBytes]
    by_cases h : n * p.dataChunk ≤ 512
    · rw [Nat.min_eq_right h, fbSlice_append m (Nat.zero_le _) (by omega)]
      congr 2
      rw [Nat.succ_mul]
    · have he : fbSlice m (n * p.dataChunk) (min 512 (n * p.dataChunk + p.dataChunk)) = [] := by
        apply List.eq_nil_of_length_eq_zero
        simp; omega
      rw [he, List.append_nil, Nat.succ_mul]
      congr 1; omega

end Sys2Proof.Machine
end

