-- ==== Sys2Proof/Laws/PerInstr.lean ====
section
/-! SUPPORT. A statement made per instruction: the number of bytes of its encoding. -/

namespace Sys2Proof.Laws.EncodeLength

/-- R51, R58, R60: the lengths of the encodings. -/
def Statement (i : Instr) : Prop :=
  (encode i).length =
    match i with
    | .clear | .init | .flush => 1
    | .setPixel _ _ _ => 10
    | .drawText _ _ s => 13 + 4 * s.length
    | .readFb _ => 3
    | .displayOff | .setStartLine0 | .segRemap | .comScanDec | .entireDisplayResume | .normalDisplay | .displayOn => 1
    | .setClockDiv | .setMultiplex | .setDisplayOffset | .chargePump | .setAddrMode => 2
    | .setComPins | .setContrast | .setPrecharge | .setVcomh => 2
    | .setColumnRange _ _ | .setPageRange _ _ => 3
    | .ctrlCommand | .ctrlData => 1

theorem clear : Statement .clear := rfl
theorem setPixel (x y : Int) (on : Bool) : Statement (.setPixel x y on) := rfl

theorem drawText (x y : Int) (s : List Nat) : Statement (.drawText x y s) := by
  simp only [Statement, encode, le32Bytes, List.length_cons, List.length_append, List.length_nil, encodeCodePoints_length]
  omega

theorem readFb (i : Nat) : Statement (.readFb i) := rfl
theorem init : Statement .init := rfl
theorem flush : Statement .flush := rfl
theorem displayOff : Statement .displayOff := rfl
theorem setClockDiv : Statement .setClockDiv := rfl
theorem setMultiplex : Statement .setMultiplex := rfl
theorem setDisplayOffset : Statement .setDisplayOffset := rfl
theorem setStartLine0 : Statement .setStartLine0 := rfl
theorem chargePump : Statement .chargePump := rfl
theorem setAddrMode : Statement .setAddrMode := rfl
theorem segRemap : Statement .segRemap := rfl
theorem comScanDec : Statement .comScanDec := rfl
theorem setComPins : Statement .setComPins := rfl
theorem setContrast : Statement .setContrast := rfl
theorem setPrecharge : Statement .setPrecharge := rfl
theorem setVcomh : Statement .setVcomh := rfl
theorem entireDisplayResume : Statement .entireDisplayResume := rfl
theorem normalDisplay : Statement .normalDisplay := rfl
theorem displayOn : Statement .displayOn := rfl
theorem setColumnRange (a b : Byte) : Statement (.setColumnRange a b) := rfl
theorem setPageRange (a b : Byte) : Statement (.setPageRange a b) := rfl
theorem ctrlCommand : Statement .ctrlCommand := rfl
theorem ctrlData : Statement .ctrlData := rfl

end Sys2Proof.Laws.EncodeLength
end

