-- ==== Sys2Proof/Laws/Pixel.lean ====
section
/-! SUPPORT. The rasterizer, pixel by pixel: what a pixel write, a glyph and a text do to each pixel of the frame. -/

namespace Sys2Proof.Machine

theorem inBounds_iff {x y : Int} : inBounds x y = true ↔ 0 ≤ x ∧ x < 128 ∧ 0 ≤ y ∧ y < 32 := by
  simp [inBounds, and_assoc]

theorem byteIndex_lt {x y : Int} (h : inBounds x y = true) : byteIndex x y < 512 := by
  obtain ⟨h1, h2, h3, h4⟩ := inBounds_iff.mp h
  unfold byteIndex
  omega

theorem bitIndex_lt (y : Int) : bitIndex y < 8 := by
  unfold bitIndex
  omega

/-- Two pixels in bounds share byte and bit only if they are the same pixel (R31). -/
theorem pixel_place_inj {x y px py : Int} (h : inBounds x y = true) (hp : inBounds px py = true)
    (hi : byteIndex px py = byteIndex x y) (hb : bitIndex py = bitIndex y) : px = x ∧ py = y := by
  obtain ⟨h1, h2, h3, h4⟩ := inBounds_iff.mp h
  obtain ⟨k1, k2, k3, k4⟩ := inBounds_iff.mp hp
  unfold byteIndex at hi
  unfold bitIndex at hb
  omega

/-- Writing one bit of a byte changes that bit alone (R37, R107). -/
theorem withBit_getLsbD (v : Byte) {b : Nat} (hb : b < 8) (on : Bool) (j : Nat) (hj : j < 8) :
    (withBit v b on).getLsbD j = if j = b then on else v.getLsbD j := by
  have key : ∀ (b j : Fin 8) (on : Bool) (v : Byte),
      (withBit v b on).getLsbD j = if j.val = b.val then on else v.getLsbD j := by
    intro b j on v
    fin_cases b <;> fin_cases j <;> cases on <;> simp [withBit]
  exact key ⟨b, hb⟩ ⟨j, hj⟩ on v

/-- A pixel write, seen at any byte (R107). -/
theorem fbRead_putPixel (m : Memory) (x y : Int) (v : Bool) (i : Nat) :
    fbRead (putPixel m x y v) i =
      if inBounds x y = true ∧ i = byteIndex x y then withBit (fbRead m i) (bitIndex y) v else fbRead m i := by
  unfold putPixel
  by_cases h : inBounds x y = true
  · by_cases hi : i = byteIndex x y
    · subst hi; simp [h]
    · simp [h, hi, fbRead_fbWrite_other m _ hi]
  · simp [h]

theorem putPixel_oob (m : Memory) {x y : Int} (v : Bool) (h : inBounds x y = false) : putPixel m x y v = m := by
  simp [putPixel, h]

theorem putPixel_wf {m : Memory} (x y : Int) (v : Bool) (h : Memory.wf 512 m = true) :
    Memory.wf 512 (putPixel m x y v) = true := by
  unfold putPixel
  split
  · next hb => exact fbWrite_wf _ (byteIndex_lt hb) h
  · exact h

/-- A pixel write, seen at any pixel in bounds: it changes its own pixel alone (R107). -/
theorem pixel_putPixel (m : Memory) (x y : Int) (v : Bool) {px py : Int} (hp : inBounds px py = true) :
    pixel (putPixel m x y v) px py = if px = x ∧ py = y then v else pixel m px py := by
  unfold pixel
  rw [fbRead_putPixel]
  by_cases h : inBounds x y = true
  · by_cases hi : byteIndex px py = byteIndex x y
    · rw [if_pos ⟨h, hi⟩, withBit_getLsbD _ (bitIndex_lt y) v _ (bitIndex_lt py)]
      by_cases hb : bitIndex py = bitIndex y
      · obtain ⟨rfl, rfl⟩ := pixel_place_inj h hp hi hb
        simp
      · rw [if_neg hb, if_neg]
        rintro ⟨rfl, rfl⟩
        exact hb rfl
    · rw [if_neg (by simp [hi]), if_neg]
      rintro ⟨rfl, rfl⟩
      exact hi rfl
  · rw [if_neg (by simp [h]), if_neg]
    rintro ⟨rfl, rfl⟩
    exact h hp

/-! ## One glyph -/

/-- A text of Unicode scalar values holds no bad code point (R54). -/
theorem badCodePoint_eq_none {cps : List Nat} : badCodePoint cps = none ↔ cps.all isScalar = true := by
  simp [badCodePoint, List.find?_eq_none, List.all_eq_true]

/-- The bad code point reported is one of the text's, and is no Unicode scalar value. -/
theorem badCodePoint_eq_some {cps : List Nat} {v : Nat} (h : badCodePoint cps = some v) : v ∈ cps ∧ isScalar v = false :=
  ⟨List.mem_of_find?_eq_some h, by simpa using List.find?_some h⟩

/-- DRAW_TEXT of Unicode scalar values runs (R113). -/
theorem execDrawText_scalar {x y : Int} {cps : List Nat} (s : State) (h : cps.all isScalar = true) :
    execDrawText x y cps s = .next ((s.setFb (drawText s.params s.fb x y cps)).ret .ok) := by
  rw [execDrawText, badCodePoint_eq_none.mpr h]

/-- DRAW_TEXT answers a next state only for Unicode scalar values. -/
theorem execDrawText_next {x y : Int} {cps : List Nat} {s t : State} (h : execDrawText x y cps s = .next t) :
    cps.all isScalar = true ∧ t = (s.setFb (drawText s.params s.fb x y cps)).ret .ok := by
  unfold execDrawText at h
  split at h
  · next hb => simp only [Host.Outcome.next.injEq] at h; exact ⟨badCodePoint_eq_none.mp hb, h.symm⟩
  · simp at h

/-- A code point has a glyph exactly from 0x20 to 0x7E (R108). -/
theorem hasGlyph_iff {cp : Nat} : hasGlyph cp = true ↔ 0x20 ≤ cp ∧ cp ≤ 0x7E := by
  rw [hasGlyph, Bool.and_eq_true, decide_eq_true_iff, decide_eq_true_iff]
  exact Iff.rfl

/-- What one place of a cell does to a pixel that holds `old`. -/
def blitOver (p : Config.Params) (cp c r : Nat) (old : Bool) : Bool :=
  glyphPixel p cp c r || (decide (p.blitMode = .transparent) && old)

theorem pixel_blitPixel (p : Config.Params) (x0 y : Int) (cp : Nat) (m : Memory) (r c : Nat) {px py : Int}
    (hp : inBounds px py = true) :
    pixel (blitPixel p x0 y cp m r c) px py =
      if px = x0 + c ∧ py = y - 12 + r then blitOver p cp c r (pixel m px py) else pixel m px py := by
  unfold blitPixel blitOver
  cases hg : glyphPixel p cp c r <;> cases hm : p.blitMode <;> simp [pixel_putPixel _ _ _ _ hp]

theorem blitPixel_wf (p : Config.Params) (x0 y : Int) (cp : Nat) {m : Memory} (r c : Nat) (h : Memory.wf 512 m = true) :
    Memory.wf 512 (blitPixel p x0 y cp m r c) = true := by
  unfold blitPixel
  split
  · exact putPixel_wf _ _ _ h
  · split
    · exact putPixel_wf _ _ _ h
    · exact h

/-- A fold of steps that each act on their own place acts at a place exactly once: `f` is the effect at place `k`, `here` says which
step acts on the pixel looked at. -/
theorem foldl_range_at {α β : Type} (step : α → Nat → α) (look : α → β) (f : Nat → β → β) (k : Nat)
    (hit : ∀ a, look (step a k) = f k (look a)) (miss : ∀ a j, j ≠ k → look (step a j) = look a) (n : Nat) (a : α) :
    look ((List.range n).foldl step a) = if k < n then f k (look a) else look a := by
  induction n with
  | zero => simp
  | succ n ih =>
    rw [List.range_succ, List.foldl_append, List.foldl_cons, List.foldl_nil]
    by_cases hk : k = n
    · subst hk
      rw [hit, ih]
      simp
    · rw [miss _ _ (Ne.symm hk), ih]
      by_cases h1 : k < n
      · rw [if_pos h1, if_pos (by omega)]
      · rw [if_neg h1, if_neg (by omega)]

/-- A fold of steps none of which acts on what is looked at. -/
theorem foldl_range_away {α β : Type} (step : α → Nat → α) (look : α → β) (miss : ∀ a j, look (step a j) = look a) (n : Nat)
    (a : α) : look ((List.range n).foldl step a) = look a := by
  induction n with
  | zero => simp
  | succ n ih => rw [List.range_succ, List.foldl_append, List.foldl_cons, List.foldl_nil, miss, ih]

theorem pixel_blitRow (p : Config.Params) (x0 y : Int) (cp : Nat) (m : Memory) (r : Nat) {px py : Int}
    (hp : inBounds px py = true) :
    pixel (blitRow p x0 y cp m r) px py =
      if x0 ≤ px ∧ px < x0 + 8 ∧ py = y - 12 + r then blitOver p cp (px - x0).toNat r (pixel m px py) else pixel m px py := by
  unfold blitRow
  by_cases hx : x0 ≤ px ∧ py = y - 12 + r
  · rw [foldl_range_at (fun m c => blitPixel p x0 y cp m r c) (fun m => pixel m px py)
      (fun c old => blitOver p cp c r old) (px - x0).toNat]
    · by_cases h8 : px < x0 + 8
      · rw [if_pos (by omega), if_pos ⟨hx.1, h8, hx.2⟩]
      · rw [if_neg (by omega), if_neg (by omega)]
    · intro a
      rw [pixel_blitPixel _ _ _ _ _ _ _ hp, if_pos ⟨by omega, hx.2⟩]
    · intro a j hj
      rw [pixel_blitPixel _ _ _ _ _ _ _ hp, if_neg (by omega)]
  · rw [foldl_range_away (fun m c => blitPixel p x0 y cp m r c) (fun m => pixel m px py)]
    · rw [if_neg (by omega)]
    · intro a j
      rw [pixel_blitPixel _ _ _ _ _ _ _ hp, if_neg (by omega)]

theorem blitRow_wf (p : Config.Params) (x0 y : Int) (cp : Nat) {m : Memory} (r : Nat) (h : Memory.wf 512 m = true) :
    Memory.wf 512 (blitRow p x0 y cp m r) = true := by
  unfold blitRow
  induction (List.range 8) generalizing m with
  | nil => exact h
  | cons c cs ih => exact ih (blitPixel_wf p x0 y cp r c h)

/-- A glyph, seen at any pixel in bounds (R109). -/
theorem pixel_blitGlyph (p : Config.Params) (m : Memory) (x0 y : Int) (cp : Nat) {px py : Int} (hp : inBounds px py = true) :
    pixel (blitGlyph p m x0 y cp) px py =
      if x0 ≤ px ∧ px < x0 + 8 ∧ y - 12 ≤ py ∧ py ≤ y then
        blitOver p cp (px - x0).toNat (py - (y - 12)).toNat (pixel m px py)
      else pixel m px py := by
  unfold blitGlyph
  by_cases hc : (x0 ≤ px ∧ px < x0 + 8) ∧ y - 12 ≤ py
  · rw [foldl_range_at (fun m r => blitRow p x0 y cp m r) (fun m => pixel m px py)
      (fun r old => blitOver p cp (px - x0).toNat r old) (py - (y - 12)).toNat]
    · by_cases h13 : py ≤ y
      · rw [if_pos (by omega), if_pos ⟨hc.1.1, hc.1.2, hc.2, h13⟩]
      · rw [if_neg (by omega), if_neg (by omega)]
    · intro a
      rw [pixel_blitRow _ _ _ _ _ _ hp, if_pos ⟨hc.1.1, hc.1.2, by omega⟩]
    · intro a j hj
      rw [pixel_blitRow _ _ _ _ _ _ hp, if_neg (by omega)]
  · rw [foldl_range_away (fun m r => blitRow p x0 y cp m r) (fun m => pixel m px py)]
    · rw [if_neg (by omega)]
    · intro a j
      rw [pixel_blitRow _ _ _ _ _ _ hp, if_neg (by omega)]

theorem blitGlyph_wf (p : Config.Params) {m : Memory} (x0 y : Int) (cp : Nat) (h : Memory.wf 512 m = true) :
    Memory.wf 512 (blitGlyph p m x0 y cp) = true := by
  unfold blitGlyph
  induction (List.range 13) generalizing m with
  | nil => exact h
  | cons r rs ih => exact ih (blitRow_wf p x0 y cp r h)

theorem drawText_wf (p : Config.Params) {m : Memory} (x y : Int) (cps : List Nat) (h : Memory.wf 512 m = true) :
    Memory.wf 512 (drawText p m x y cps) = true := by
  induction cps generalizing m x with
  | nil => exact h
  | cons cp cps ih => exact ih (x + 8) (blitGlyph_wf p x y cp h)

end Sys2Proof.Machine
end

