-- ==== Sys2Proof/Laws/Step.lean ====
section
/-! SUPPORT. What one step can be, said once: a step of PANEL, a transaction of the operation in progress, nothing, or HOST's next
operation. -/

namespace Sys2Proof.Machine

/-- If a step answers a next state, one of four things happened. -/
theorem step_cases {s t : State} (h : step s = .next t) :
    (s.panel.rx ≠ [] ∧ panelStep s = .next t) ∨
    (s.panel.rx = [] ∧ s.seq ≠ .idle ∧ t = seqStep s) ∨
    (s.panel.rx = [] ∧ s.seq = .idle ∧ s.hostIn = [] ∧ t = s) ∨
    (s.panel.rx = [] ∧ s.seq = .idle ∧
      ∃ i rest, decode .host s.hostIn = .ok (i, rest) ∧ exec i (s.setHostIn rest) = .next t) := by
  unfold step at h
  split at h
  · next b bs hrx => exact .inl ⟨by simp [hrx], h⟩
  · next hrx =>
    split at h
    · next hseq =>
      unfold hostStep at h
      split at h
      · next hin =>
        simp only [Host.Outcome.next.injEq] at h
        exact .inr (.inr (.inl ⟨hrx, hseq, hin, h.symm⟩))
      · next b bs hin =>
        split at h
        · next i rest hd => exact .inr (.inr (.inr ⟨hrx, hseq, i, rest, by rw [hin]; exact hd, h⟩))
        · simp at h
    all_goals
      next hseq =>
        simp only [Host.Outcome.next.injEq] at h
        exact .inr (.inl ⟨hrx, by simp [hseq], h.symm⟩)

/-- A decoded host operation is one. -/
theorem decode_host_port {bs rest : List Byte} {i : Instr} (h : decode .host bs = .ok (i, rest)) : i.port = .host := by
  change decodeHost bs = _ at h
  unfold decodeHost at h
  split at h
  · simp at h
  · split_ifs at h
    · simp only [Except.ok.injEq, Prod.mk.injEq] at h; simp [← h.1, Instr.port]
    · unfold decodePixel at h
      split at h
      · unfold pixelOperation at h
        split_ifs at h <;> simp only [Except.ok.injEq, Prod.mk.injEq] at h <;> simp [← h.1, Instr.port]
      · simp at h
    · unfold decodeText at h
      split at h
      · unfold textOperation at h
        split_ifs at h
        split at h
        · simp only [Except.ok.injEq, Prod.mk.injEq] at h; simp [← h.1, Instr.port]
        · simp at h
      · simp at h
    · unfold decodeRead at h
      split at h
      · unfold readOperation at h
        split_ifs at h
        simp only [Except.ok.injEq, Prod.mk.injEq] at h; simp [← h.1, Instr.port]
      · simp at h
    · simp only [Except.ok.injEq, Prod.mk.injEq] at h; simp [← h.1, Instr.port]
    · simp only [Except.ok.injEq, Prod.mk.injEq] at h; simp [← h.1, Instr.port]

/-- What a host operation does when it answers a next state, one case each. -/
theorem exec_host_cases {i : Instr} {s t : State} (hp : i.port = .host) (h : exec i s = .next t) :
    (i = .clear ∧ t = (s.setFb clearedFb).ret .ok) ∨
    (∃ x y on, i = .setPixel x y on ∧ t = (s.setFb (putPixel s.fb x y on)).ret .ok) ∨
    (∃ x y cps, i = .drawText x y cps ∧ cps.all isScalar = true ∧ t = (s.setFb (drawText s.params s.fb x y cps)).ret .ok) ∨
    (∃ k, i = .readFb k ∧ k ≤ 511 ∧ t = s.ret (.okByte (fbRead s.fb k))) ∨
    (i = .init ∧ t = initOp s) ∨
    (i = .flush ∧ t = flushOp s) := by
  cases i <;> simp only [Instr.port, reduceCtorEq] at hp <;>
    simp only [exec, execClear, execSetPixel, execReadFb, execInit, execFlush, Host.Outcome.next.injEq] at h
  · exact .inl ⟨rfl, h.symm⟩
  · exact .inr (.inl ⟨_, _, _, rfl, h.symm⟩)
  · exact .inr (.inr (.inl ⟨_, _, _, rfl, execDrawText_next h⟩))
  · split at h
    · next hk => simp only [Host.Outcome.next.injEq] at h; exact .inr (.inr (.inr (.inl ⟨_, rfl, hk, h.symm⟩)))
    · simp at h
  · exact .inr (.inr (.inr (.inr (.inl ⟨rfl, h.symm⟩))))
  · exact .inr (.inr (.inr (.inr (.inr ⟨rfl, h.symm⟩))))

end Sys2Proof.Machine
end

