-- ==== Sys2Proof/Tests/Slice0.lean ====
section
/-! SUPPORT. Tests: ill-formed terms refused, words written out from the encodings, single steps against the vectors of
95_test_vectors.md, and for each obligation with hypotheses a state and operands that meet them. -/

namespace Sys2Proof.Tests

open Sys2Proof.Machine

/-! ## Helpers -/

/-- A reply of TRANSPORT that acknowledges everything. -/
def okReply : Reply := ⟨.ok, 0⟩

/-- A failed transaction of which PANEL received the first `n` bytes. -/
def failed (k : IoError) (n : Nat) : Reply := ⟨.err k, n⟩

/-- A test font of 95 glyphs, each with the rows that `row` gives (95_test_vectors.md, "Test fonts"). -/
def font (row : Nat → Byte) : List Byte := (List.range 1235).map fun j => row (j % 13)

/-- `FULL`. -/
def full : List Byte := font fun _ => 0xFF#8

/-- `TL`. -/
def topLeft : List Byte := font fun r => if r = 0 then 0x80#8 else 0x00#8

/-- `BR`. -/
def bottomRight : List Byte := font fun r => if r = 12 then 0x01#8 else 0x00#8

/-- Listed bytes of a framebuffer, all equal. -/
def bytes (v : Byte) (as : List Nat) : Memory := as.map fun a => (a, v)

/-- A state with a framebuffer and a font. -/
def drawing (m : Memory) (f : List Byte) (mode : BlitMode) : State :=
  { State.reset with fb := m, params := ⟨f, mode, 16⟩ }

/-- A state with the latch set or not, replies to come, and a PANEL in horizontal addressing mode. -/
def driving (latch : Bool) (rs : List Reply) : State :=
  { State.reset with
    latch := latch, replies := rs, params := ⟨full, .transparent, 16⟩, panel := { Panel.powerOn with addrMode := 0x00#8 } }

/-- A state whose PANEL has a transaction to act on. -/
def receiving (mode : Option RxMode) (rx : List Byte) : State :=
  { State.reset with panel := { Panel.powerOn with mode := mode, rx := rx, addrMode := 0x00#8 } }

/-- What `f` sees of the next state, if there is one. -/
def after {α : Type} (o : Host.Outcome State Fault Refusal) (f : State → α) : Option α :=
  match o with
  | .next t => some (f t)
  | .fault _ => none
  | .refused _ => none

/-- The reason an outcome is refused, if it is. -/
def stopped (o : Host.Outcome State Fault Refusal) : Option Refusal :=
  match o with
  | .next _ => none
  | .fault _ => none
  | .refused r => some r

theorem font_length (row : Nat → Byte) : (font row).length = 1235 := by
  unfold font
  rw [List.length_map, List.length_range]

/-- The configuration of `driving` is legal. -/
theorem driving_params_wf (l : Bool) (rs : List Reply) : (driving l rs).params.wf = true := by
  rw [params_wf_iff]
  refine ⟨?_, by show 1 ≤ 16; decide, by show 16 ≤ 32; decide⟩
  simp only [driving, full, font_length]

/-- Forty replies that are all `Ok`. -/
def allOk : List Reply := List.replicate 40 okReply

theorem allOk_upcoming (l : Bool) (j : Nat) (h : j < 40) : ((driving l allOk).upcoming j).answer = .ok := by
  show (((List.replicate 40 okReply)[j]?).getD _).answer = .ok
  rw [List.getElem?_replicate, if_pos h]
  rfl

/-- The configuration of `driving` makes 32 chunks. -/
theorem driving_chunks (l : Bool) (rs : List Reply) : chunkCount (driving l rs).params = 32 := by
  show (512 + 16 - 1) / 16 = 32
  rfl

/-! ## Well-formedness: ill-formed terms are refused -/

theorem test_wf_setPixel : (Instr.setPixel 2147483648 0 true).wf = false ∧ (Instr.setPixel 0 (-2147483649) true).wf = false := by
  decide

theorem test_wf_drawText : (Instr.drawText (-2147483649) 0 []).wf = false ∧ (Instr.drawText 0 2147483648 []).wf = false ∧
    (Instr.drawText 0 15 [0xD800]).wf = false ∧ (Instr.drawText 0 15 [0x41, 0x110000]).wf = false := by
  decide

theorem test_wf_readFb : (Instr.readFb 512).wf = false := by decide

theorem test_wf_setColumnRange : (Instr.setColumnRange 0x01#8 0x7F#8).wf = false ∧
    (Instr.setColumnRange 0x00#8 0x7E#8).wf = false := by
  decide

theorem test_wf_setPageRange : (Instr.setPageRange 0x01#8 0x03#8).wf = false ∧ (Instr.setPageRange 0x00#8 0x04#8).wf = false := by
  decide

theorem test_wf_params : (Config.Params.mk [] .transparent 16).wf = false := by decide

/-! ## Decoding: words written out from R52 to R55, R58, R61 (programs P1, P2, P4) -/

theorem test_decode_host :
    decode .host [0x01#8] = .ok (.clear, []) ∧
    decode .host [0x02#8, 0x80#8, 0#8, 0#8, 0#8, 0xFE#8, 0xFF#8, 0xFF#8, 0xFF#8, 0x00#8] = .ok (.setPixel 128 (-2) false, []) ∧
    decode .host [0x03#8, 0x7C#8, 0#8, 0#8, 0#8, 0x28#8, 0#8, 0#8, 0#8, 0x02#8, 0#8, 0#8, 0#8, 0x41#8, 0#8, 0#8, 0#8, 0x42#8, 0#8, 0#8,
      0#8, 0x06#8] = .ok (.drawText 124 40 [0x41, 0x42], [0x06#8]) ∧
    decode .host [0x04#8, 0x83#8, 0x00#8] = .ok (.readFb 131, []) ∧
    decode .host [0x05#8] = .ok (.init, []) ∧
    decode .host [0x06#8] = .ok (.flush, []) :=
  ⟨rfl, rfl, rfl, rfl, rfl, rfl⟩

theorem test_decode_commands :
    decode .command [0xAE#8] = .ok (.displayOff, []) ∧ decode .command [0xD5#8, 0x80#8] = .ok (.setClockDiv, []) ∧
    decode .command [0xA8#8, 0x1F#8] = .ok (.setMultiplex, []) ∧ decode .command [0xD3#8, 0x00#8] = .ok (.setDisplayOffset, []) ∧
    decode .command [0x40#8] = .ok (.setStartLine0, []) ∧ decode .command [0x8D#8, 0x14#8] = .ok (.chargePump, []) ∧
    decode .command [0x20#8, 0x00#8] = .ok (.setAddrMode, []) ∧ decode .command [0xA1#8] = .ok (.segRemap, []) ∧
    decode .command [0xC8#8] = .ok (.comScanDec, []) ∧ decode .command [0xDA#8, 0x02#8] = .ok (.setComPins, []) ∧
    decode .command [0x81#8, 0x8F#8] = .ok (.setContrast, []) ∧ decode .command [0xD9#8, 0xF1#8] = .ok (.setPrecharge, []) ∧
    decode .command [0xDB#8, 0x40#8] = .ok (.setVcomh, []) ∧ decode .command [0xA4#8] = .ok (.entireDisplayResume, []) ∧
    decode .command [0xA6#8] = .ok (.normalDisplay, []) ∧ decode .command [0xAF#8] = .ok (.displayOn, []) ∧
    decode .command [0x21#8, 0x00#8, 0x7F#8] = .ok (.setColumnRange 0x00#8 0x7F#8, []) ∧
    decode .command [0x22#8, 0x00#8, 0x03#8] = .ok (.setPageRange 0x00#8 0x03#8, []) :=
  ⟨rfl, rfl, rfl, rfl, rfl, rfl, rfl, rfl, rfl, rfl, rfl, rfl, rfl, rfl, rfl, rfl, rfl, rfl⟩

theorem test_decode_control :
    decode .control [0x00#8, 0xAE#8] = .ok (.ctrlCommand, [0xAE#8]) ∧ decode .control [0x40#8] = .ok (.ctrlData, []) :=
  ⟨rfl, rfl⟩

/-- PM-6, R86, R56: each port refuses by name. -/
theorem test_decode_refuses :
    decode .control [0x80#8] = .error (.controlByte 0x80#8) ∧ decode .command [0xA5#8] = .error (.commandByte 0xA5#8) ∧
    decode .command [0x20#8, 0x02#8] = .error (.parameter 0x20#8 0x02#8) ∧
    decode .command [0x81#8] = .error (.partialCommand 0x81#8) ∧
    decode .command [0x21#8, 0x10#8, 0x20#8] = .error (.parameter 0x21#8 0x10#8) ∧
    decode .command [0x22#8, 0x00#8, 0x07#8] = .error (.parameter 0x22#8 0x07#8) ∧ decode .host [0x00#8] = .error (.hostOpcode 0x00#8) ∧
    decode .host [0x07#8] = .error (.hostOpcode 0x07#8) ∧ decode .host [0x04#8, 0x00#8, 0x02#8] = .error (.readIndex 512) ∧
    decode .host [0x02#8, 0#8, 0#8, 0#8, 0#8, 0#8, 0#8, 0#8, 0#8, 0x02#8] = .error (.pixelOn 0x02#8) :=
  ⟨rfl, rfl, rfl, rfl, rfl, rfl, rfl, rfl, rfl, rfl⟩

/-- R-26. -/
theorem test_decode_refuses_surrogate :
    decode .host [0x03#8, 0#8, 0#8, 0#8, 0#8, 15#8, 0#8, 0#8, 0#8, 1#8, 0#8, 0#8, 0#8, 0x00#8, 0xD8#8, 0#8, 0#8] =
      .error (.codePoint 0xD800) :=
  rfl

/-- Words of the opcode table, and the step that runs one right after reset. -/
theorem test_table_words :
    decodeTableWord 8 0x02 = some (.setPixel 0 0 false) ∧ decodeTableWord 8 0x00 = some .ctrlCommand ∧
    decodeTableWord 16 0x8D14 = some .chargePump ∧ decodeTableWord 24 0x21007F = some (.setColumnRange 0x00#8 0x7F#8) ∧
    after (step (State.reset.withFetchWord 16 0xD580)) (fun t => t.panel.clockDiv) = some 0x80#8 ∧
    after (step (State.reset.withFetchWord 8 0x06)) (fun t => t.results) = some [.err .uninitialized] := by
  decide

/-! ## Rasterizer -/

/-- X-2. -/
theorem test_setPixel_last : after (exec (.setPixel 127 31 true) (drawing (bytes 0x00#8 [510, 511]) [] .transparent)) State.fb =
    some [(510, 0x00#8), (511, 0x80#8)] := by
  decide

/-- X-4. -/
theorem test_setPixel_clears : after (exec (.setPixel 5 9 false) (drawing [(133, 0x03#8)] [] .transparent)) State.fb =
    some [(133, 0x01#8)] := by
  decide

/-- CR-1, one byte. -/
theorem test_clear : after (exec .clear (drawing (bytes 0xFF#8 [0, 511]) [] .transparent)) (fun t => fbRead t.fb 511) =
    some 0x00#8 := by
  decide +kernel

/-- CR-3. -/
theorem test_readFb : after (exec (.readFb 131) (drawing [(131, 0x81#8)] [] .transparent)) State.results =
    some [.okByte 0x81#8] := by
  decide

/-- CR-5. -/
theorem test_readFb_refused : stopped (exec (.readFb 512) State.reset) = some (.readIndex 512) := by decide

/-- R-3: clipped left and top; one byte outside the cell. -/
theorem test_drawText_full : after (exec (.drawText (-4) 5 [0x41]) (drawing (bytes 0x00#8 [0, 1, 2, 3, 4]) full .transparent))
    State.fb = some [(0, 0x3F#8), (1, 0x3F#8), (2, 0x3F#8), (3, 0x3F#8), (4, 0x00#8)] := by
  decide +kernel

/-- R-6 and R-7: the corners of a glyph, `x` advancing by 8. -/
theorem test_drawText_corners :
    after (exec (.drawText 0 15 [0x41, 0x42]) (drawing (bytes 0x00#8 [0, 8]) topLeft .transparent)) State.fb =
      some [(0, 0x08#8), (8, 0x08#8)] ∧
    after (exec (.drawText 0 15 [0x41]) (drawing (bytes 0x00#8 [135]) bottomRight .transparent)) State.fb = some [(135, 0x80#8)] := by
  decide +kernel

/-- R-26, at the operation and through SHOW. -/
theorem test_drawText_refused : stopped (exec (.drawText 0 15 [0x41, 0xD800]) State.reset) = some (.codePoint 0xD800) ∧
    facadeShow [0x41] [0x110000] State.reset = .refused (.codePoint 0x110000) :=
  ⟨by decide, rfl⟩

/-- R-25: OPAQUE clears the off pixels of the cell only. -/
theorem test_drawText_opaque :
    after (exec (.drawText 0 15 [0x41]) (drawing (bytes 0xFF#8 [0, 1, 2, 3, 4, 5, 6, 7, 8, 128, 129, 130, 131, 132, 133, 134, 135])
      topLeft .overwrite)) State.fb =
    some ((0, 0x0F#8) :: (bytes 0x07#8 [1, 2, 3, 4, 5, 6, 7] ++ (8, 0xFF#8) ::
      bytes 0x00#8 [128, 129, 130, 131, 132, 133, 134, 135])) := by
  decide +kernel

/-! ## Driver -/

/-- I-1. -/
theorem test_init_ok : after (exec .init (driving false [okReply])) (fun t => (t.latch, t.tlog, t.results)) =
    some (true, [⟨0x3C#7, [0x00#8, 0xAE#8, 0xD5#8, 0x80#8, 0xA8#8, 0x1F#8, 0xD3#8, 0x00#8, 0x40#8, 0x8D#8, 0x14#8, 0x20#8, 0x00#8,
      0xA1#8, 0xC8#8, 0xDA#8, 0x02#8, 0x81#8, 0x8F#8, 0xD9#8, 0xF1#8, 0xDB#8, 0x40#8, 0xA4#8, 0xA6#8, 0xAF#8], .ok⟩], [.ok]) := by
  decide +kernel

/-- I-4. -/
theorem test_init_fails : after (exec .init (driving true [failed .timeout 3])) (fun t => (t.latch, t.results)) =
    some (true, [.err (.io .timeout)]) := by
  decide +kernel

/-- F-1. -/
theorem test_flush_uninitialized : after (exec .flush (driving false [])) (fun t => (t.tlog, t.results)) =
    some ([], [.err .uninitialized]) := by
  decide

/-- F-8, with the lengths of the transactions made. -/
theorem test_flush_stops : after (exec .flush (driving true [okReply, okReply, okReply, failed .timeout 0]))
    (fun t => (t.tlog.map fun e => (e.bytes.length, e.answer), t.results)) =
    some ([(7, .ok), (17, .ok), (17, .ok), (17, .err .timeout)], [.err (.io .timeout)]) := by
  decide +kernel

/-- S-2: the facade's clear before INIT. -/
theorem test_facade_clear : ∃ t, facadeClear (driving false []) = .next (t, .ok) ∧ t.tlog = [] := ⟨_, rfl, rfl⟩

/-! ## PANEL -/

/-- PM-2's two commands, at PANEL's port. -/
theorem test_panel_window : after (step (receiving (some .command) [0x21#8, 0x00#8, 0x7F#8]))
      (fun t => (t.panel.colStart, t.panel.colEnd, t.panel.colPtr)) = some (0#7, 127#7, 0#7) ∧
    after (step (receiving (some .command) [0x22#8, 0x00#8, 0x03#8]))
      (fun t => (t.panel.pageStart, t.panel.pageEnd, t.panel.pagePtr)) = some (0#3, 3#3, 0#3) := by
  decide

/-- PM-6. -/
theorem test_panel_refuses_control : stopped (step (receiving none [0x80#8, 0x00#8])) =
    some (.undecodable (.controlByte 0x80#8)) := by
  decide

/-- The examples of R88 and R102. -/
theorem test_panel_commands : after (step (receiving (some .command) [0xD5#8, 0x80#8])) (fun t => t.panel.clockDiv) = some 0x80#8 ∧
    after (step (receiving (some .command) [0xAF#8, 0xAE#8])) (fun t => (t.panel.displayOn, t.panel.rx)) = some (true, [0xAE#8]) := by
  decide

/-- PM-4's last byte: from the last column the pointer goes to the first column of the next page. -/
theorem test_panel_data_wraps :
    after (step { State.reset with panel := { Panel.powerOn with
        addrMode := 0x00#8, mode := some .data, rx := [0x22#8], colStart := 0#7, colEnd := 127#7, colPtr := 127#7,
        pageStart := 0#3, pageEnd := 3#3, pagePtr := 0#3 } })
      (fun t => (t.panel.gddram, t.panel.colPtr, t.panel.pagePtr)) = some ([(127, 0x22#8)], 0#7, 1#3) := by
  decide

/-! ## Witnesses: states and operands that meet the hypotheses of the obligations -/

theorem test_meets_DecodeReadsBackEncode : (Instr.setPixel (-2147483648) 2147483647 true).wf = true ∧
    (Instr.drawText (-4) 5 [0, 0xD7FF, 0xE000, 0x10FFFF]).wf = true ∧ (Instr.readFb 511).wf = true ∧
    (Instr.setColumnRange 0x00#8 0x7F#8).wf = true ∧ (Instr.setPageRange 0x00#8 0x03#8).wf = true ∧ Instr.init.wf = true := by
  decide

theorem test_meets_DecodeAcceptsOnlyEncodings :
    decode .host [0x04#8, 0xFF#8, 0x01#8, 0xAA#8] = .ok (.readFb 511, [0xAA#8]) ∧
    decode .control [0x00#8, 0xAE#8] = .ok (.ctrlCommand, [0xAE#8]) ∧
    decode .command [0x22#8, 0x00#8, 0x03#8, 0xAF#8] = .ok (.setPageRange 0x00#8 0x03#8, [0xAF#8]) :=
  ⟨rfl, rfl, rfl⟩

/-- One input for each clause, at the boundary of its range. -/
theorem test_meets_HostPortRefusesBadInput :
    (7 ≤ (0x07#8).toNat ∧ 7 ≤ (0xFF#8).toNat) ∧ (List.replicate 8 0#8).length < 9 ∧ (List.replicate 11 0#8).length < 12 ∧
    ((List.replicate 8 0#8).length = 8 ∧ (1 : Nat) < 4294967296 ∧ (List.replicate 3 0#8).length < 4 * 1) ∧
    [0#8].length < 2 ∧ 2 ≤ (0x02#8).toNat ∧ (511 < 512 ∧ 512 < 65536 ∧ 511 < 65535 ∧ 65535 < 65536) ∧
    ([0x41].all isScalar = true ∧ isScalar 0xD800 = false ∧ isScalar 0xDFFF = false ∧ isScalar 0x110000 = false ∧
      ([0x41] ++ 0xD800 :: [0]).length < 4294967296) := by
  decide

/-- One input for each clause, at the boundary of its range. -/
theorem test_meets_PanelPortsRefuseBadInput :
    ((0x01#8 : Byte) ≠ 0x00#8 ∧ (0x01#8 : Byte) ≠ 0x40#8) ∧
    (0x41#8 : Byte) ∉ [0xAE#8, 0xD5#8, 0xA8#8, 0xD3#8, 0x40#8, 0x8D#8, 0x20#8, 0xA1#8, 0xC8#8, 0xDA#8, 0x81#8, 0xD9#8, 0xDB#8,
      0xA4#8, 0xA6#8, 0xAF#8, 0x21#8, 0x22#8] ∧
    ((0x22#8, 0x00#8) ∈ [((0x20#8 : Byte), (0x00#8 : Byte)), (0x21#8, 0x00#8), (0x22#8, 0x00#8)] ∧ (0x01#8 : Byte) ≠ 0x00#8) ∧
    (0x80#8 : Byte) ≠ 0x7F#8 ∧ (0x04#8 : Byte) ≠ 0x03#8 := by
  decide

theorem test_meets_StepRunsHostOperation :
    ∃ s : State, s.panel.rx = [] ∧ s.seq = .idle ∧ decode .host s.hostIn = .ok (.clear, [0x06#8]) :=
  ⟨{ State.reset with hostIn := [0x01#8, 0x06#8] }, rfl, rfl, rfl⟩

theorem test_meets_StepRunsPanelInstruction :
    ((receiving none [0x40#8, 0x11#8]).panel.refused = none ∧ (receiving none [0x40#8, 0x11#8]).panel.mode = none ∧
      decode .control (receiving none [0x40#8, 0x11#8]).panel.rx = .ok (.ctrlData, [0x11#8])) ∧
    ((receiving (some .command) [0x40#8]).panel.refused = none ∧ (receiving (some .command) [0x40#8]).panel.mode = some .command ∧
      decode .command (receiving (some .command) [0x40#8]).panel.rx = .ok (.setStartLine0, [])) :=
  ⟨⟨rfl, rfl, rfl⟩, rfl, rfl, rfl⟩

theorem test_meets_IdleBlockWaits : State.reset.panel.rx = [] ∧ State.reset.seq = .idle ∧ State.reset.hostIn = [] :=
  ⟨rfl, rfl, rfl⟩

theorem test_meets_StepGoesOnWithOperation :
    ∃ s : State, s.panel.rx = [] ∧ s.seq ≠ .idle ∧ s.hostIn = [0x01#8] :=
  ⟨{ State.reset with seq := .flushData 3, hostIn := [0x01#8] }, rfl, by simp, rfl⟩

theorem test_meets_StepRefusesUndecodable : ∃ s : State, s.panel.rx = [] ∧ s.seq = .idle ∧ s.hostIn ≠ [] ∧
    decode .host s.hostIn = .error (.hostOpcode 0x07#8) :=
  ⟨{ State.reset with hostIn := [0x07#8] }, rfl, rfl, by simp, rfl⟩

/-- The extreme pixels, in bounds and out (SetPixelWritesOneBit, SetPixelThenReadFb). -/
theorem test_meets_SetPixel : ((127 : Nat) < 128 ∧ (31 : Nat) < 32) ∧ ((-1 : Int) < 0 ∧ (128 : Int) ≤ 128 ∧ (32 : Int) ≤ 32) := by
  decide

/-- The last index and the first refused (ReadFbReturnsByte, ReadFbRefusesIndex). -/
theorem test_meets_ReadFb : (511 : Nat) ≤ 511 ∧ (511 : Nat) < 512 := by decide

theorem test_meets_DrawTextDrawsGlyphs : ([0, 0x41, 0xD7FF, 0xE000, 0x10FFFF] : List Nat).all isScalar = true ∧
    inBounds 127 31 = true ∧ (512 : Nat) ≤ 512 := by
  decide

/-- The boundary values, in a text and in either line of a SHOW. -/
theorem test_meets_DrawTextRefusesNonScalar : ([0x41] : List Nat).all isScalar = true ∧ isScalar 0xD800 = false ∧
    isScalar 0xDFFF = false ∧ isScalar 0x110000 = false ∧ ([0xD800] ++ [0x41] : List Nat).all isScalar = false ∧
    ([0x41] ++ [0xDFFF] : List Nat).all isScalar = false := by
  decide

theorem test_meets_TextWidthBound : ∃ t u : State, exec (.drawText 0 15 [0x41, 0x42]) State.reset = .next t ∧
    exec (.drawText 0 15 ([0x41, 0x42].take 16)) State.reset = .next u ∧ inBounds 16 15 = true ∧
    8 * (([0x41, 0x42] : List Nat).length : Int) ≤ 16 :=
  ⟨_, _, rfl, rfl, by decide, by decide⟩

theorem test_meets_UnknownCodePointsAreBlank : (drawing [] full .transparent).params.blitMode = .transparent ∧
    ∀ cp ∈ ([0x1F, 0x7F, 0xE9] : List Nat), isScalar cp = true ∧ (cp < 0x20 ∨ 0x7E < cp) := by
  decide

theorem test_meets_TransparentTextOnlySetsBits : (drawing [] full .transparent).params.blitMode = .transparent ∧
    ∃ t, exec (.drawText 0 15 [0x41]) (drawing [] full .transparent) = .next t :=
  ⟨rfl, _, rfl⟩

theorem test_meets_GlyphBitsComeFromFont : (driving true []).params.wf = true ∧ 7 < 8 ∧ 12 < 13 ∧ 0x20 ≤ 0x7E ∧
    (0x1F < 0x20 ∧ 0x7E < 0x7F) :=
  ⟨driving_params_wf _ _, by decide, by decide, by decide, by decide, by decide⟩

theorem test_meets_PixelMapIsBijection : inBounds 127 31 = true ∧ inBounds 127 32 = false ∧ 511 < 512 ∧ 7 < 8 := by decide

/-- Both answers of INIT's transaction (InitMakesItsTransaction, InitConfiguresPanel). -/
theorem test_meets_InitMakesItsTransaction : ((driving false allOk).upcoming 0).answer = .ok ∧
    (driving false allOk).panel.refused = none ∧ ((driving true [failed .nack 0]).upcoming 0).answer = .err .nack :=
  ⟨rfl, rfl, rfl⟩

/-- A failed INIT for every number of bytes delivered. -/
theorem test_meets_FailedInitDeliversPart : ∀ n, (driving false [failed .nack n]).panel.refused = none ∧
    ((driving false [failed .nack n]).upcoming 0).answer = .err .nack ∧
    ((driving false [failed .nack n]).upcoming 0).delivered = n :=
  fun _ => ⟨rfl, rfl, rfl⟩

/-- A FLUSH that fails at its command transaction, and one that fails at its last data transaction, at every number of bytes. -/
theorem test_meets_FailedFlushDeliversPart : ∀ n,
    ((driving true [failed .nack n]).latch = true ∧ (driving true [failed .nack n]).panel.refused = none ∧
      ((driving true [failed .nack n]).upcoming 0).answer = .err .nack ∧
      ((driving true [failed .nack n]).upcoming 0).delivered = n) ∧
    (driving true (List.replicate 32 okReply ++ [failed .timeout n])).latch = true ∧
    (driving true (List.replicate 32 okReply ++ [failed .timeout n])).params.wf = true ∧
    (driving true (List.replicate 32 okReply ++ [failed .timeout n])).panel.refused = none ∧
    (driving true (List.replicate 32 okReply ++ [failed .timeout n])).panel.addrMode = 0x00#8 ∧
    31 < chunkCount (driving true (List.replicate 32 okReply ++ [failed .timeout n])).params ∧
    (∀ i, i ≤ 31 → ((driving true (List.replicate 32 okReply ++ [failed .timeout n])).upcoming i).answer = .ok) ∧
    ((driving true (List.replicate 32 okReply ++ [failed .timeout n])).upcoming 32).answer = .err .timeout ∧
    ((driving true (List.replicate 32 okReply ++ [failed .timeout n])).upcoming 32).delivered = n := by
  intro n
  refine ⟨⟨rfl, rfl, rfl, rfl⟩, rfl, driving_params_wf _ _, rfl, rfl, by rw [driving_chunks]; decide, fun i hi => ?_, rfl, rfl⟩
  show (((List.replicate 32 okReply ++ [failed .timeout n])[i]?).getD _).answer = .ok
  rw [List.getElem?_append_left (by simp; omega), List.getElem?_replicate, if_pos (by omega)]
  rfl

/-- A cut INIT, byte by byte: display OFF alone, then 0xD5 without its parameter (R84, R145). -/
theorem test_init_part : after (exec .init (driving false [failed .nack 2]))
      (fun t => (t.panel.displayOn, t.panel.rx, t.panel.draws)) = some (false, [], 0) ∧
    after (exec .init (driving false [failed .nack 3])) (fun t => (t.panel.displayOn, t.panel.rx, t.panel.draws)) =
      some (false, [], 1) := by
  decide +kernel

theorem test_meets_FlushBeforeInit : State.reset.latch = false ∧ ∃ t, exec .flush (driving false []) = .next t ∧
    t.results = (driving false []).results ++ [.err .uninitialized] :=
  ⟨rfl, _, rfl, rfl⟩

/-- FlushSendsWholeFrame, SuccessfulFlushSendsWholeFrame, and the second clause of SequencerRefinesOperations with `n` at its least. -/
theorem test_meets_FlushSendsWholeFrame : (driving true allOk).latch = true ∧ (driving true allOk).params.wf = true ∧
    (∀ j, j ≤ chunkCount (driving true allOk).params → ((driving true allOk).upcoming j).answer = .ok) ∧
    chunkCount (driving true allOk).params < 33 ∧
    ∃ t, exec .flush (driving true allOk) = .next t ∧ t.results = (driving true allOk).results ++ [.ok] :=
  have h : ∀ j, j ≤ chunkCount (driving true allOk).params → ((driving true allOk).upcoming j).answer = .ok :=
    fun j h => allOk_upcoming true j (by rw [driving_chunks] at h; omega)
  ⟨rfl, driving_params_wf _ _, h, by decide, flushOp (driving true allOk), rfl, (flushOp_ok _ rfl h).2⟩

/-- The first transaction and the last one failing. -/
theorem test_meets_FirstErrorEndsOperation :
    ((driving true [failed .nack 0]).latch = true ∧ ((driving true [failed .nack 0]).upcoming 0).answer = .err .nack) ∧
    (driving true (List.replicate 32 okReply ++ [failed .timeout 5])).latch = true ∧
    32 ≤ chunkCount (driving true (List.replicate 32 okReply ++ [failed .timeout 5])).params ∧
    (∀ i, i < 32 → ((driving true (List.replicate 32 okReply ++ [failed .timeout 5])).upcoming i).answer = .ok) ∧
    ((driving true (List.replicate 32 okReply ++ [failed .timeout 5])).upcoming 32).answer = .err .timeout :=
  ⟨⟨rfl, rfl⟩, rfl, by decide, by decide +kernel, rfl⟩

/-- A full frame cut into 32 chunks: the first, the one before the last, the last. -/
theorem test_meets_ChunksCutFrameInOrder : (driving true []).params.wf = true ∧ 0 < chunkCount (driving true []).params ∧
    30 + 1 < chunkCount (driving true []).params ∧ 31 < chunkCount (driving true []).params :=
  ⟨driving_params_wf _ _, by decide, by decide, by decide⟩

/-- Two flushes that return `Ok`, the second right after the first. -/
theorem test_meets_FlushRepeatsSameBytes : ∃ s t v : State, s.params.wf = true ∧ exec .flush s = .next t ∧
    t.results.getLast? = some .ok ∧ t.fb = s.fb ∧ t.slaveAddr = s.slaveAddr ∧ t.params = s.params ∧ exec .flush t = .next v ∧
    v.results.getLast? = some .ok := by
  have h1 : ∀ s : State, s.latch = true → s.params = (driving true []).params → s.replies = List.replicate 66 okReply →
      ∃ t v : State, exec .flush s = .next t ∧ t.results.getLast? = some .ok ∧ t.fb = s.fb ∧ t.slaveAddr = s.slaveAddr ∧
        t.params = s.params ∧ exec .flush t = .next v ∧ v.results.getLast? = some .ok := by
    intro s hl hp hr
    have hc : chunkCount s.params = 32 := by rw [hp]; rfl
    have hup : ∀ j, j < 66 → (s.upcoming j).answer = .ok := by
      intro j hj
      unfold State.upcoming
      rw [hr, List.getElem?_replicate, if_pos hj]
      rfl
    have ht := flushOp_ok s hl fun j hj => hup j (by omega)
    have hf := flushOp_frame s
    have hu := flushOp_ok (flushOp s) (by rw [hf.2.1, hl]) fun j hj => by
      rw [hf.2.2.2.1] at hj
      rw [flushOp_upcoming s hl (fun i hi => hup i (by omega))]
      exact hup _ (by omega)
    exact ⟨flushOp s, flushOp (flushOp s), rfl, by rw [ht.2]; simp, hf.1, hf.2.2.1, hf.2.2.2.1, rfl, by rw [hu.2]; simp⟩
  obtain ⟨t, v, h⟩ := h1 (driving true (List.replicate 66 okReply)) rfl rfl rfl
  exact ⟨_, t, v, driving_params_wf _ _, h⟩

theorem test_meets_RangeCommandsSetWindow : ((0x00#8 : Byte).toNat ≤ (0x7F#8 : Byte).toNat ∧ (0x7F#8 : Byte).toNat ≤ 0x7F) ∧
    (0x07#8 : Byte).toNat ≤ 0x07 ∧ (0x00#8 : Byte).toNat < (0x01#8 : Byte).toNat ∧ 0x7F < (0x80#8 : Byte).toNat ∧
    0x07 < (0x08#8 : Byte).toNat := by
  decide

theorem test_meets_ControlByteSelectsMode : (0x80#8 : Byte) ≠ 0x00#8 ∧ (0x80#8 : Byte) ≠ 0x40#8 ∧
    (receiving none [0x80#8]).panel.refused = none ∧ (receiving none [0x80#8]).panel.mode = none ∧
    (receiving none [0x80#8]).panel.rx = [0x80#8] := by
  decide

/-- One PANEL for each clause: outside horizontal mode, inside the window, at its last column, at its last place. -/
theorem test_meets_DisplayDataFillsWindow :
    let at_ := fun (m : Byte) (c : BitVec 7) (p : BitVec 3) => { (receiving (some .data) [0x11#8]).panel with
      addrMode := m, colStart := 0#7, colEnd := 126#7, colPtr := c, pageStart := 0#3, pageEnd := 3#3, pagePtr := p }
    ((at_ 0x02#8 0#7 0#3).refused = none ∧ (at_ 0x02#8 0#7 0#3).mode = some .data ∧ (at_ 0x02#8 0#7 0#3).rx = [0x11#8] ∧
      (at_ 0x02#8 0#7 0#3).addrMode ≠ 0x00#8) ∧
    ((at_ 0x00#8 125#7 0#3).addrMode = 0x00#8 ∧ (at_ 0x00#8 125#7 0#3).colPtr ≠ (at_ 0x00#8 125#7 0#3).colEnd ∧
      (at_ 0x00#8 125#7 0#3).colPtr ≠ 127#7) ∧
    ((at_ 0x00#8 126#7 3#3).colPtr = (at_ 0x00#8 126#7 3#3).colEnd ∧ (at_ 0x00#8 126#7 3#3).pagePtr = (at_ 0x00#8 126#7 3#3).pageEnd) ∧
    ((at_ 0x00#8 126#7 2#3).colPtr = (at_ 0x00#8 126#7 2#3).colEnd ∧
      (at_ 0x00#8 126#7 2#3).pagePtr ≠ (at_ 0x00#8 126#7 2#3).pageEnd ∧ (at_ 0x00#8 126#7 2#3).pagePtr ≠ 7#3) := by
  decide

theorem test_meets_CutCommandDrawsItsRegister : ∀ rx ∈ ([[0xD5#8], [0xA8#8], [0xD3#8], [0x8D#8], [0x20#8], [0xDA#8], [0x81#8], [0xD9#8],
      [0xDB#8], [0x21#8], [0x21#8, 0x00#8], [0x22#8], [0x22#8, 0x00#8]] : List (List Byte)),
    (receiving (some .command) rx).panel.refused = none ∧ (receiving (some .command) rx).panel.mode = some .command ∧
    (receiving (some .command) rx).panel.rx = rx :=
  fun _ _ => ⟨rfl, rfl, rfl⟩

/-- An INIT and a FLUSH that both return `Ok`, from a PANEL without a mark, with a CLEAR between them. -/
theorem test_meets_PanelShowsFramebuffer : ∃ s t v u : State, s.panel.refused = none ∧ s.params.wf = true ∧
    exec .init s = .next t ∧ t.results.getLast? = some .ok ∧ exec .clear t = .next v ∧ v.panel = t.panel ∧ v.params = t.params ∧
    exec .flush v = .next u ∧ u.results.getLast? = some .ok := by
  have key : ∀ c : State, c.latch = true → chunkCount c.params = 32 → (∀ j, j ≤ 32 → (c.upcoming j).answer = .ok) →
      ∃ v u : State, exec .clear c = .next v ∧ v.panel = c.panel ∧ v.params = c.params ∧ exec .flush v = .next u ∧
        u.results.getLast? = some .ok := by
    intro c hl hc hok
    have h := flushOp_ok ((c.setFb clearedFb).ret .ok) hl fun j hj => hok j (by change j ≤ chunkCount c.params at hj; omega)
    exact ⟨_, _, rfl, rfl, rfl, rfl, by rw [h.2]; simp⟩
  have hf := initOp_frame (driving false allOk)
  obtain ⟨v, u, h⟩ := key (initOp (driving false allOk)) (by rw [hf.2.2.2.2.2.2]; rfl)
    (by rw [hf.2.2.1, driving_chunks]) fun j hj => by rw [initOp_upcoming]; exact allOk_upcoming false _ (by omega)
  exact ⟨driving false allOk, _, v, u, rfl, driving_params_wf _ _, rfl, by rw [initOp_results]; rfl, h⟩

theorem test_meets_PanelCannotInfluenceBlock : State.reset.panel.rx = [] ∧ ({ Panel.powerOn with contrast := 0xFF#8 } : Panel).rx = [] :=
  ⟨rfl, rfl⟩

/-- For each clause: a PANEL in another addressing mode, and one already refused. -/
theorem test_meets_RefusedPanelKeepsMark :
    (∃ s : State, s.latch = true ∧ s.params.wf = true ∧ s.panel.refused = none ∧ s.panel.addrMode ≠ 0x00#8 ∧
      ∀ j, j ≤ chunkCount s.params → (s.upcoming j).answer = .ok) ∧
    ∃ s : State, s.panel.refused = some (.addressingMode 0x02#8) ∧ Instr.flush.port = .host ∧ Instr.flush.wf = true :=
  ⟨⟨(driving true allOk).onPanel fun p => { p with addrMode := 0x02#8 }, rfl, driving_params_wf true allOk, rfl, by decide,
      fun j h => allOk_upcoming true j (by change j ≤ 32 at h; omega)⟩,
    { State.reset with panel := { Panel.powerOn with refused := some (.addressingMode 0x02#8) } }, rfl, rfl, rfl⟩

/-- StepKeepsInvariant and SlaveAddrIsFixed: a state that meets the invariant and steps. -/
theorem test_meets_StepKeepsInvariant : ∃ s t : State, s.Inv ∧ step s = .next t := by
  refine ⟨{ State.reset with hostIn := [0x06#8] }, _, ⟨rfl, rfl, ?_, ?_, rfl, ?_, ?_⟩, rfl⟩
  · show Config.specParams.wf = true
    rw [params_wf_iff]
    exact ⟨by simp [Config.specParams, Config.fontBytes], by show 1 ≤ 16; decide, by show 16 ≤ 32; decide⟩
  · intro t h; exact absurd h (by simp [State.reset, State.construct])
  · intro h; exact absurd h (by simp [State.reset, State.construct])
  · intro k h; exact absurd h (by simp [State.reset, State.construct])

/-- For each clause: a step with the latch set, and a step that sets it. -/
theorem test_meets_OnlyInitSetsLatch : (∃ s t : State, step s = .next t ∧ s.latch = true) ∧
    ∃ s t : State, step s = .next t ∧ s.latch = false ∧ t.latch = true := by
  refine ⟨⟨{ State.reset with latch := true }, _, rfl, rfl⟩, { driving false allOk with hostIn := [0x05#8] },
    initOp ((driving false allOk).setHostIn []), rfl, rfl, ?_⟩
  rw [(initOp_frame _).2.2.2.2.2.2]
  rfl

theorem test_meets_OnlyDrawingWritesFb : ∃ s t : State, Instr.init ≠ .clear ∧ (∀ x y on, Instr.init ≠ .setPixel x y on) ∧
    (∀ x y cps, Instr.init ≠ .drawText x y cps) ∧ exec .init s = .next t :=
  ⟨State.reset, _, by simp, by simp, by simp, rfl⟩

theorem test_meets_EveryHostOperationReturns : (Instr.drawText 0 15 [0x41]).port = .host ∧ (Instr.drawText 0 15 [0x41]).wf = true ∧
    State.reset.seq = .idle ∧ State.reset.panel.rx = [] ∧ Instr.clear ≠ .init ∧ Instr.clear ≠ .flush :=
  ⟨rfl, rfl, rfl, rfl, by simp, by simp⟩

/-- ShowBeforeInit and ShowComposesThenFlushes. -/
theorem test_meets_ShowBeforeInit : State.reset.latch = false ∧ ([0x41] : List Nat).all isScalar = true ∧
    ([0x42, 0x10FFFF] : List Nat).all isScalar = true :=
  ⟨rfl, by decide, by decide⟩

/-- ShowSendsFinishedFrame and ShowLayout, a pixel for each clause. -/
theorem test_meets_Show : ∃ (t : State) (r : Option OpResult), facadeShow [0x41] [0x42, 0x43] (driving true allOk) = .next (t, r) ∧
    (inBounds 127 31 = true ∧ inBounds 0 2 = true ∧ inBounds 0 16 = true ∧ inBounds 0 17 = true) ∧
    (inBounds 8 3 = true ∧ inBounds 8 15 = true ∧ 8 * (([0x41] : List Nat).length : Int) ≤ 8) ∧
    (inBounds 16 18 = true ∧ inBounds 16 30 = true ∧ 8 * (([0x42, 0x43] : List Nat).length : Int) ≤ 16) :=
  ⟨_, _, rfl, by decide, by decide, by decide⟩

/-- For each clause: two FACADE_CLEAR whose flushes return `Ok`, and two before INIT. -/
theorem test_meets_FacadeClearSuppressesErrors :
    (∃ s t u : State, facadeClear s = .next (t, .ok) ∧ facadeClear t = .next (u, .ok) ∧ t.results.getLast? = some .ok ∧
      u.results.getLast? = some .ok) ∧
    ∃ s t u : State, facadeClear s = .next (t, .ok) ∧ facadeClear t = .next (u, .ok) ∧ s.latch = false := by
  refine ⟨?_, State.reset, _, _, rfl, rfl, rfl⟩
  have h1 : ∀ s : State, s.latch = true → s.params = (driving true []).params → s.replies = List.replicate 66 okReply →
      ∃ t u : State, facadeClear s = .next (t, .ok) ∧ facadeClear t = .next (u, .ok) ∧ t.results.getLast? = some .ok ∧
        u.results.getLast? = some .ok := by
    intro s hl hp hr
    have hc : chunkCount s.params = 32 := by rw [hp]; rfl
    have hup : ∀ j, j < 66 → (s.upcoming j).answer = .ok := by
      intro j hj
      unfold State.upcoming
      rw [hr, List.getElem?_replicate, if_pos hj]
      rfl
    have ht := flushOp_ok ((s.setFb clearedFb).ret .ok) hl fun j hj => hup j (by change j ≤ chunkCount s.params at hj; omega)
    have hf := flushOp_frame ((s.setFb clearedFb).ret .ok)
    have hu := flushOp_ok (((flushOp ((s.setFb clearedFb).ret .ok)).setFb clearedFb).ret .ok)
      (by rw [State.ret_latch, State.setFb_latch, hf.2.1]; exact hl) fun j hj => by
        rw [State.ret_params, State.setFb_params, hf.2.2.2.1] at hj
        change j ≤ chunkCount s.params at hj
        show ((flushOp ((s.setFb clearedFb).ret .ok)).upcoming j).answer = .ok
        rw [flushOp_upcoming ((s.setFb clearedFb).ret .ok) hl fun i hi => hup i (by change i ≤ chunkCount s.params at hi; omega)]
        exact hup _ (by show j + (chunkCount s.params + 1) < 66; omega)
    exact ⟨_, _, rfl, rfl, by rw [ht.2]; simp, by rw [hu.2]; simp⟩
  exact ⟨driving true (List.replicate 66 okReply), h1 _ rfl rfl rfl⟩

end Sys2Proof.Tests
end

section
/-! Construction and the state it leaves (10_state.md R28, 70_reset_and_hazards.md R138). -/

namespace Sys2Proof.Machine

/-- With nothing written, `FB` reads as its power-on draw (R28). -/
@[simp] theorem fbRead_nil (i : Nat) : fbRead [] i = Config.powerOnFb i := rfl

/-- Construction writes no byte of `FB` (R28). -/
@[simp] theorem State.construct_fb (addr : SlaveAddr) : (State.construct addr).fb = [] := rfl

/-- R28: every byte of `FB` is still its power-on draw after construction. -/
theorem fbRead_construct (addr : SlaveAddr) (i : Nat) : fbRead (State.construct addr).fb i = Config.powerOnFb i := by
  rw [State.construct_fb, fbRead_nil]

/-- Settles O43: the rows for the address, LATCH, SEQ and TLOG are what `State.construct` puts there, the row for `FB` is that nothing
is written yet, and reset is construction with the default address. -/
theorem resetValues : Obligations.ResetValues := by
  unfold Obligations.ResetValues
  constructor
  · intro addr
    exact ⟨rfl, rfl, rfl, rfl, fbRead_construct addr⟩
  · rfl

end Sys2Proof.Machine
end

section
/-! The pixel map as a bijection onto the bits of `FB` (20_memory.md R31). -/

namespace Sys2Proof.Machine

/-- At natural coordinates the byte index is the spec's expression, read in the natural numbers (R31). -/
theorem byteIndex_natCast (x y : Nat) : byteIndex x y = x + y / 8 * 128 := by
  unfold byteIndex
  omega

/-- At a natural row the bit index is the spec's expression, read in the natural numbers (R31). -/
theorem bitIndex_natCast (y : Nat) : bitIndex y = y % 8 := by
  unfold bitIndex
  omega

/-- `Pixel(x, y)` at natural coordinates, as R31 writes it. -/
theorem pixel_natCast (m : Memory) (x y : Nat) :
    pixel m x y = (fbRead m (x + y / 8 * 128)).getLsbD (y % 8) := by
  rw [pixel, byteIndex_natCast, bitIndex_natCast]

/-- Bit `b` of byte `i` belongs to the pixel in column `i mod 128` of the byte's page, `b` rows below the page's first (R31). -/
theorem pixel_place_surj {i b : Nat} (hi : i < 512) (hb : b < 8) :
    ∃ x y : Int, inBounds x y = true ∧ byteIndex x y = i ∧ bitIndex y = b := by
  refine ⟨(i % 128 : Nat), (i / 128 * 8 + b : Nat), ?_, ?_, ?_⟩
  · rw [inBounds_iff]
    omega
  · rw [byteIndex_natCast]
    omega
  · rw [bitIndex_natCast]
    omega

/-- Settles O22: the byte and bit of a pixel are in range, no two pixels in bounds share them, every bit of `FB` is some pixel's, and a
write out of bounds is clipped. -/
theorem pixelMapIsBijection : Obligations.PixelMapIsBijection := by
  unfold Obligations.PixelMapIsBijection
  refine ⟨pixel_natCast, ?range, ?injective, ?surjective, ?clipped⟩
  case range => exact fun _ y h => ⟨byteIndex_lt h, bitIndex_lt y⟩
  case injective => exact fun _ _ _ _ h hp hi hb => pixel_place_inj hp h hi hb
  case surjective => exact fun _ _ hi hb => pixel_place_surj hi hb
  case clipped => exact fun m _ _ v h => putPixel_oob m v h

end Sys2Proof.Machine
end

section
/-! What BLOCK does with its PANEL exchanged (40_transport.md R72): each operation comes to the same state outside PANEL, and stops
for the same reason. -/

namespace Sys2Proof.Machine

/-! ## TRANSPORT and the sequencer's moves -/

/-- PANEL takes no part in TRANSPORT's answer (R67, R72). -/
@[simp] theorem txAnswer_withPanel (s : State) (p : Panel) : txAnswer (s.withPanel p) = txAnswer s := rfl

@[simp] theorem State.ready_withPanel (s : State) (p : Panel) : (s.withPanel p).ready = s.ready := rfl

@[simp] theorem initEnd_withPanel (a : Answer) (s : State) (p : Panel) :
    initEnd a (s.withPanel p) = (initEnd a s).withPanel p := by
  cases a <;> rfl

@[simp] theorem flushNext_withPanel (k : Nat) (s : State) (p : Panel) :
    flushNext k (s.withPanel p) = (flushNext k s).withPanel p := by
  unfold flushNext
  rw [State.withPanel_params]
  split <;> rfl

/-! ## INIT, FLUSH and their transactions -/

theorem initOp_withPanel (s : State) (p : Panel) : ∃ q, initOp (s.withPanel p) = (initOp s).withPanel q := by
  unfold initOp
  rw [State.setSeq_withPanel, txWrite_withPanel, txAnswer_withPanel, initEnd_withPanel]
  exact ⟨_, rfl⟩

/-- Whether FLUSH's data loop goes on is TRANSPORT's answer, and what it sends is `FB`'s: neither is PANEL's. -/
theorem flushChunks_withPanel (ks : List Nat) (s : State) (p : Panel) :
    ∃ q, flushChunks ks (s.withPanel p) = (flushChunks ks s).withPanel q := by
  induction ks generalizing s p with
  | nil => exact ⟨p, rfl⟩
  | cons k ks ih =>
    unfold flushChunks
    rw [State.setSeq_withPanel, txWrite_withPanel, txAnswer_withPanel, State.withPanel_params, State.withPanel_fb]
    split
    · exact ih _ _
    · exact ⟨_, rfl⟩

theorem flushFrame_withPanel (s : State) (p : Panel) : ∃ q, flushFrame (s.withPanel p) = (flushFrame s).withPanel q := by
  unfold flushFrame
  rw [State.setSeq_withPanel, txWrite_withPanel, txAnswer_withPanel, State.withPanel_params]
  split
  · exact flushChunks_withPanel _ _ _
  · exact ⟨_, rfl⟩

theorem flushOp_withPanel (s : State) (p : Panel) : ∃ q, flushOp (s.withPanel p) = (flushOp s).withPanel q := by
  unfold flushOp
  rw [State.ready_withPanel]
  split
  · exact flushFrame_withPanel s p
  · exact ⟨p, rfl⟩

theorem seqStep_withPanel (s : State) (p : Panel) : ∃ q, seqStep (s.withPanel p) = (seqStep s).withPanel q := by
  unfold seqStep
  rw [State.withPanel_seq, txAnswer_withPanel, State.withPanel_params, State.withPanel_fb]
  split
  · exact ⟨p, rfl⟩
  · rw [txWrite_withPanel, initEnd_withPanel]
    exact ⟨_, rfl⟩
  · rw [txWrite_withPanel, flushNext_withPanel]
    split <;> exact ⟨_, rfl⟩
  · rw [txWrite_withPanel, flushNext_withPanel]
    split <;> exact ⟨_, rfl⟩

/-! ## Host operations and steps -/

/-- A host operation answers, or stops, the same whatever PANEL holds. -/
theorem exec_host_withPanel {i : Instr} (hi : i.port = .host) (s : State) (p : Panel) :
    ∃ q, exec i (s.withPanel p) = withoutPanel q (exec i s) := by
  cases i <;> simp only [Instr.port, reduceCtorEq] at hi
  case clear => exact ⟨p, rfl⟩
  case setPixel x y on => exact ⟨p, rfl⟩
  case drawText x y cps =>
    refine ⟨p, ?_⟩
    change execDrawText x y cps _ = withoutPanel p (execDrawText x y cps s)
    unfold execDrawText
    split <;> rfl
  case readFb k =>
    refine ⟨p, ?_⟩
    change execReadFb k _ = withoutPanel p (execReadFb k s)
    unfold execReadFb
    split <;> rfl
  case init =>
    obtain ⟨q, hq⟩ := initOp_withPanel s p
    exact ⟨q, congrArg Host.Outcome.next hq⟩
  case flush =>
    obtain ⟨q, hq⟩ := flushOp_withPanel s p
    exact ⟨q, congrArg Host.Outcome.next hq⟩

theorem hostStep_withPanel (s : State) (p : Panel) : ∃ q, hostStep (s.withPanel p) = withoutPanel q (hostStep s) := by
  unfold hostStep
  rw [State.withPanel_hostIn]
  split
  · exact ⟨p, rfl⟩
  · split
    · next hd =>
      rw [State.setHostIn_withPanel]
      exact exec_host_withPanel (decode_host_port hd) _ p
    · exact ⟨p, rfl⟩

/-- With PANEL done and BLOCK Idle, a step is HOST's (R44). -/
theorem step_of_idle {s : State} (hrx : s.panel.rx = []) (hs : s.seq = .idle) : step s = hostStep s := by
  unfold step
  rw [hrx, hs]

/-- With PANEL done and BLOCK in the middle of INIT or FLUSH, a step is the sequencer's (R21). -/
theorem step_of_busy {s : State} (hrx : s.panel.rx = []) (hs : s.seq ≠ .idle) : step s = .next (seqStep s) := by
  unfold step
  rw [hrx]
  cases hq : s.seq with
  | idle => exact absurd hq hs
  | initCmd => rfl
  | flushCmd => rfl
  | flushData k => rfl

/-- Settles O41: with nothing left for either PANEL to act on, both states take the same kind of step, HOST's or the sequencer's, and
each kind ignores what PANEL holds. -/
theorem panelCannotInfluenceBlock : Obligations.PanelCannotInfluenceBlock := by
  unfold Obligations.PanelCannotInfluenceBlock
  intro s p hs hp
  by_cases hq : s.seq = .idle
  · rw [step_of_idle hs hq, step_of_idle (s := s.withPanel p) hp hq]
    exact hostStep_withPanel s p
  · rw [step_of_busy hs hq, step_of_busy (s := s.withPanel p) hp hq]
    obtain ⟨q, hstep⟩ := seqStep_withPanel s p
    exact ⟨q, congrArg Host.Outcome.next hstep⟩

end Sys2Proof.Machine
end

section
/-! The driver's payloads, INIT's one transaction, and what a FLUSH that returned `Ok` has sent (41_ssd1306_driver.md R77 to R82). -/

namespace Sys2Proof.Machine

/-! ## The two constants -/

/-- Settles O6: both constants are closed byte lists, so encoding their commands and counting their bytes is a computation. -/
theorem payloadsAreTheirCommands : Obligations.PayloadsAreTheirCommands := by
  unfold Obligations.PayloadsAreTheirCommands
  refine ⟨?initIsItsCommands, ?initBytes, ?initLength, ?flushIsItsCommands, ?flushBytes⟩
  case initIsItsCommands => rfl
  case initBytes => rfl
  case initLength => rfl
  case flushIsItsCommands => rfl
  case flushBytes => rfl

/-! ## INIT -/

/-- INIT answers with the whole operation (R79). -/
theorem exec_init (s : State) : exec .init s = .next (initOp s) := rfl

/-- An INIT answered `Ok` sets the latch and returns `Ok` (R79). -/
theorem initOp_ok {s : State} (h : (s.upcoming 0).answer = .ok) :
    (initOp s).latch = true ∧ (initOp s).results = s.results ++ [.ok] := by
  obtain ⟨-, -, -, -, -, -, hlatch⟩ := initOp_frame s
  rw [hlatch, initOp_results, show txAnswer s = .ok from h]
  exact ⟨by simp, rfl⟩

/-- An INIT answered `Err(k)` leaves the latch and returns `Err(Io(k))` (R79, R128). -/
theorem initOp_err {s : State} {k : IoError} (h : (s.upcoming 0).answer = .err k) :
    (initOp s).latch = s.latch ∧ (initOp s).results = s.results ++ [.err (.io k)] := by
  obtain ⟨-, -, -, -, -, -, hlatch⟩ := initOp_frame s
  rw [hlatch, initOp_results, show txAnswer s = .err k from h]
  exact ⟨by simp, rfl⟩

/-- Settles O23: the frame of INIT, and its end after each of TRANSPORT's two answers. -/
theorem initMakesItsTransaction : Obligations.InitMakesItsTransaction := by
  unfold Obligations.InitMakesItsTransaction
  refine ⟨fun s => ?_, decodeHost_init []⟩
  obtain ⟨hfb, haddr, hparams, hhost, hseq, htlog, -⟩ := initOp_frame s
  exact ⟨initOp s, exec_init s, htlog, rfl, hseq, hfb, haddr, hparams, hhost, initOp_ok, fun _ => initOp_err⟩

/-! ## A FLUSH that returned `Ok` -/

/-- FLUSH answers with the whole operation, and with nothing else (R80). -/
theorem exec_flush_next {s t : State} (h : exec .flush s = .next t) : t = flushOp s :=
  (Host.Outcome.next.inj h).symm

/-- If FLUSH's data loop ended with `Ok`, no transaction of it failed: a failure would be its last result (R80, R128). -/
theorem flushChunks_answers_of_ok {ks : List Nat} {s : State} (h : (flushChunks ks s).results.getLast? = some .ok) :
    ∀ j, j < ks.length → (s.upcoming j).answer = .ok := by
  induction ks generalizing s with
  | nil => exact fun _ hj => absurd hj (Nat.not_lt_zero _)
  | cons k ks ih =>
    unfold flushChunks at h
    split at h
    · next h0 =>
      intro j hj
      cases j with
      | zero => exact h0
      | succ j => simpa [State.upcoming_setSeq] using ih h j (Nat.lt_of_succ_lt_succ hj)
    · simp at h

/-- If FLUSH returned `Ok`, it passed the latch test and each of its `NCH + 1` transactions was answered `Ok` (R80, R81). -/
theorem flushOp_answers_of_ok {s : State} (h : (flushOp s).results.getLast? = some .ok) :
    s.latch = true ∧ ∀ j, j ≤ chunkCount s.params → (s.upcoming j).answer = .ok := by
  unfold flushOp at h
  split at h
  · next hready =>
    refine ⟨hready, fun j hj => ?_⟩
    unfold flushFrame at h
    split at h
    · next h0 =>
      cases j with
      | zero => exact h0
      | succ j => simpa [State.upcoming_setSeq] using flushChunks_answers_of_ok h j (by simpa using hj)
    · simp at h
  · simp at h

/-- The data transactions of a FLUSH whose replies are all `Ok` (R80). -/
def flushDataTxs (s : State) : List Tx :=
  (List.range (chunkCount s.params)).map fun k => ⟨s.slaveAddr, dataBytes s.params s.fb k, .ok⟩

/-- A FLUSH that returned `Ok` has added the command transaction and its data transactions to `TLOG` (R81). -/
theorem flushOp_tlog_of_ok {s : State} (h : (flushOp s).results.getLast? = some .ok) :
    (flushOp s).tlog = s.tlog ++ ⟨s.slaveAddr, flushBytes, .ok⟩ :: flushDataTxs s := by
  obtain ⟨hlatch, hanswers⟩ := flushOp_answers_of_ok h
  exact (flushOp_ok s hlatch hanswers).1

@[simp] theorem flushDataTxs_length (s : State) : (flushDataTxs s).length = chunkCount s.params := by
  simp [flushDataTxs]

/-- Each data transaction begins with the data control byte (R75). -/
theorem flushDataTxs_control {s : State} {e : Tx} (he : e ∈ flushDataTxs s) : e.bytes.head? = some 0x40#8 := by
  obtain ⟨k, -, rfl⟩ := List.mem_map.mp he
  rfl

/-- Chunk `NCH` would begin past the frame: the chunks before it cover all of it (R76). -/
theorem frame_le_chunks {p : Config.Params} (h : p.wf = true) : 512 ≤ chunkCount p * p.dataChunk :=
  Nat.le_of_not_lt fun hlt => Nat.lt_irrefl _ ((chunk_start_lt h).mpr hlt)

/-- The payloads of the data transactions join to the frame (R76, R81). -/
theorem flushDataTxs_payloads {s : State} (h : s.params.wf = true) :
    ((flushDataTxs s).map fun e => e.bytes.tail).flatten = (List.range 512).map (fbRead s.fb) := by
  have hchunks : ((flushDataTxs s).map fun e => e.bytes.tail) =
      (List.range (chunkCount s.params)).map (chunkBytes s.params s.fb) := by
    rw [flushDataTxs, List.map_map]
    rfl
  rw [hchunks, chunks_cover, Nat.min_eq_left (frame_le_chunks h)]
  simp [fbSlice]

/-- The data transactions depend on the frame, the address and the configuration alone (R82). -/
theorem flushDataTxs_congr {s u : State} (hfb : u.fb = s.fb) (haddr : u.slaveAddr = s.slaveAddr) (hparams : u.params = s.params) :
    flushDataTxs u = flushDataTxs s := by
  unfold flushDataTxs
  rw [hfb, haddr, hparams]

/-- Settles O28: a FLUSH that returned `Ok` has sent its command block and its data transactions, which carry the frame. -/
theorem successfulFlushSendsWholeFrame : Obligations.SuccessfulFlushSendsWholeFrame := by
  unfold Obligations.SuccessfulFlushSendsWholeFrame
  intro s t hwf hexec hres
  obtain rfl := exec_flush_next hexec
  have hok : (flushOp s).results.getLast? = some .ok := by rw [hres, List.getLast?_concat]
  exact ⟨flushDataTxs s, flushOp_tlog_of_ok hok, flushDataTxs_length s, fun _ => flushDataTxs_control, flushDataTxs_payloads hwf⟩

/-- Settles O32: both FLUSHes have sent the transactions of the one frame, to the one address. -/
theorem flushRepeatsSameBytes : Obligations.FlushRepeatsSameBytes := by
  unfold Obligations.FlushRepeatsSameBytes
  intro s t u v hwf hs hsok hfb haddr hparams hu huok
  obtain rfl := exec_flush_next hs
  obtain rfl := exec_flush_next hu
  refine ⟨⟨s.slaveAddr, flushBytes, .ok⟩, flushDataTxs s, flushOp_tlog_of_ok hsok, ?_, flushDataTxs_payloads hwf⟩
  rw [flushOp_tlog_of_ok huok, haddr, flushDataTxs_congr hfb haddr hparams]

end Sys2Proof.Machine
end

section
/-! PANEL's control byte: the mode it selects for the rest of the transaction (42_ssd1306_commands.md R85). -/

namespace Sys2Proof.Machine

/-- While PANEL has bytes to act on, a step is PANEL's (R84). -/
theorem step_of_rx {s : State} {b : Byte} {bs : List Byte} (hrx : s.panel.rx = b :: bs) : step s = panelStep s := by
  unfold step
  rw [hrx]

/-- At the start of a transaction PANEL reads a control byte (R27, R85). -/
theorem panelStep_of_noMode {s : State} {b : Byte} {bs : List Byte} (href : s.panel.refused = none)
    (hmode : s.panel.mode = none) (hrx : s.panel.rx = b :: bs) : panelStep s = panelControl (b :: bs) s := by
  unfold panelStep
  rw [href, hrx, hmode]

/-- A control byte other than the two is no instruction (R85). -/
theorem decodeControl_other {b : Byte} (bs : List Byte) (h0 : b ≠ 0x00#8) (h40 : b ≠ 0x40#8) :
    decodeControl (b :: bs) = .error (.controlByte b) := by
  simp only [decodeControl, if_neg h0, if_neg h40]

/-- PANEL refuses a control byte other than the two, by name (R85). -/
theorem panelControl_other {b : Byte} (bs : List Byte) (s : State) (h0 : b ≠ 0x00#8) (h40 : b ≠ 0x40#8) :
    panelControl (b :: bs) s = .refused (.undecodable (.controlByte b)) := by
  unfold panelControl
  rw [decode_control, decodeControl_other bs h0 h40]

/-- Settles O37: the two control bytes and their meanings are the model's equations; any other is refused where PANEL reads it. -/
theorem controlByteSelectsMode : Obligations.ControlByteSelectsMode := by
  unfold Obligations.ControlByteSelectsMode
  refine ⟨fun s => ⟨rfl, rfl⟩, rfl, rfl, ?other⟩
  case other =>
    intro s b bs h0 h40 href hmode hrx
    rw [step_of_rx hrx, panelStep_of_noMode href hmode hrx, panelControl_other bs s h0 h40]

end Sys2Proof.Machine
end

section
/-! What a successful INIT and a successful FLUSH leave in PANEL (42_ssd1306_commands.md R106). -/

namespace Sys2Proof.Machine

/-! ## The init transaction -/

/-- The init transaction, received whole: each of its 26 bytes has done what its command's place says (R77, R87 to R102). -/
theorem panelReceive_initBytes (s : State) (h : s.panel.refused = none) :
    panelReceive initBytes s = s.withPanel (s.panel.afterInitPart 26) := by
  obtain ⟨fb, latch, slaveAddr, seq, tlog, results, p, params, hostIn, replies, txDraws⟩ := s
  obtain ⟨r1, r2, r3, r4, r5, r6, r7, r8, r9, r10, r11, r12, r13, r14, r15, g, c1, c2, c3, p1, p2, p3, m, x, f, d⟩ := p
  simp only at h
  subst h
  rfl

/-- An INIT that returned `Ok` had its transaction answered `Ok` (R79). -/
theorem txAnswer_of_initOp_ok {s : State} (h : (initOp s).results.getLast? = some .ok) : txAnswer s = .ok := by
  rw [initOp_results, List.getLast?_concat] at h
  cases hans : txAnswer s with
  | ok => rfl
  | err k => simp [hans] at h

/-- An INIT that returned `Ok` has given an unmarked PANEL the whole init transaction (R69, R79). -/
theorem initOp_panel_of_ok {s : State} (href : s.panel.refused = none) (hok : (initOp s).results.getLast? = some .ok) :
    (initOp s).panel = s.panel.afterInitPart 26 := by
  rw [initOp_panel, txWrite_panel_ok (s.setSeq .initCmd) _ (txAnswer_of_initOp_ok hok), panelReceive_initBytes _ (by simpa using href)]
  simp

/-! ## The pointer in the flush window -/

/-- PANEL with the window of the flush command set and `n` data bytes written since, the pointer cycling over its 4 pages of 128
columns (R103 to R105). -/
structure Panel.InFlushWindow (n : Nat) (p : Panel) : Prop where
  colStart : p.colStart = 0#7
  colEnd : p.colEnd = 127#7
  pageStart : p.pageStart = 0#3
  pageEnd : p.pageEnd = 3#3
  colPtr : p.colPtr.toNat = n % 128
  pagePtr : p.pagePtr.toNat = n / 128 % 4

/-- In the flush window the pointer's address in the display RAM is the number of bytes written, while the frame is not full. -/
theorem Panel.InFlushWindow.addr {n : Nat} {p : Panel} (h : p.InFlushWindow n) (hn : n < 512) :
    gddramAddr p.pagePtr.toNat p.colPtr.toNat = n := by
  unfold gddramAddr
  rw [h.colPtr, h.pagePtr]
  omega

/-- At the end of a row of the flush window the page moves on, from page 3 to page 0 (R105). -/
theorem Panel.nextPage_eq_of_flushPages {n : Nat} {p : Panel} (hstart : p.pageStart = 0#3) (hend : p.pageEnd = 3#3)
    (hpage : p.pagePtr.toNat = n / 128 % 4) (hrow : n % 128 = 127) :
    ∃ page : BitVec 3, p.nextPage = { p with pagePtr := page } ∧ page.toNat = (n + 1) / 128 % 4 := by
  unfold Panel.nextPage
  by_cases hlast : p.pagePtr = p.pageEnd
  · rw [if_pos hlast]
    refine ⟨p.pageStart, rfl, ?_⟩
    have h3 : p.pagePtr.toNat = 3 := by rw [hlast, hend]; rfl
    rw [hstart, BitVec.toNat_ofNat]
    omega
  · have h7 : p.pagePtr ≠ 7#3 := fun h => by
      have : p.pagePtr.toNat = 7 := by rw [h]; rfl
      omega
    rw [if_neg hlast, if_neg h7]
    refine ⟨p.pagePtr + 1#3, rfl, ?_⟩
    have h3 : p.pagePtr.toNat ≠ 3 := fun h => hlast (by rw [hend]; exact BitVec.eq_of_toNat_eq h)
    rw [BitVec.toNat_add, BitVec.toNat_ofNat]
    omega

/-- In the flush window moving on changes the pointer alone, and it never leaves the window (R105). -/
theorem Panel.InFlushWindow.advance_eq {n : Nat} {p : Panel} (h : p.InFlushWindow n) :
    ∃ (col : BitVec 7) (page : BitVec 3), p.advance = { p with colPtr := col, pagePtr := page } ∧
      col.toNat = (n + 1) % 128 ∧ page.toNat = (n + 1) / 128 % 4 := by
  have hcol := h.colPtr
  unfold Panel.advance
  by_cases hlast : p.colPtr = p.colEnd
  · rw [if_pos hlast]
    have h127 : p.colPtr.toNat = 127 := by rw [hlast, h.colEnd]; rfl
    obtain ⟨page, heq, hpage⟩ := Panel.nextPage_eq_of_flushPages (p := { p with colPtr := p.colStart }) h.pageStart h.pageEnd
      h.pagePtr (by omega)
    refine ⟨p.colStart, page, heq, ?_, hpage⟩
    rw [h.colStart, BitVec.toNat_ofNat]
    omega
  · have h127 : p.colPtr ≠ 127#7 := by rw [← h.colEnd]; exact hlast
    rw [if_neg hlast, if_neg h127]
    have hlt : p.colPtr.toNat ≠ 127 := fun h => h127 (BitVec.eq_of_toNat_eq h)
    refine ⟨p.colPtr + 1#7, p.pagePtr, rfl, ?_, ?_⟩
    · rw [BitVec.toNat_add, BitVec.toNat_ofNat]
      omega
    · rw [h.pagePtr]
      omega

/-! ## The frame written so far -/

/-- PANEL inside a FLUSH of frame `fb`, `n` bytes of it written: they stand in the display RAM, whose other bytes are still those of
`ram`, the pointer is at the next, and the display is on, unmarked and in horizontal addressing mode. -/
structure Panel.FrameWritten (fb ram : Memory) (n : Nat) (p : Panel) : Prop where
  window : p.InFlushWindow n
  addrMode : p.addrMode = 0x00#8
  displayOn : p.displayOn = true
  refused : p.refused = none
  shown : ∀ page col, gddramAddr page col < n → gddramRead p.gddram page col = fbRead fb (gddramAddr page col)
  kept : ∀ page col, n ≤ gddramAddr page col → gddramRead p.gddram page col = gddramRead ram page col

/-- PANEL's mode and the bytes still to act on play no part in it. -/
theorem Panel.FrameWritten.withTransaction {fb ram : Memory} {n : Nat} {p : Panel} (h : p.FrameWritten fb ram n)
    (mode : Option RxMode) (rx : List Byte) : Panel.FrameWritten fb ram n { p with mode := mode, rx := rx } :=
  ⟨{ h.window with }, h.addrMode, h.displayOn, h.refused, h.shown, h.kept⟩

/-- The flush command transaction puts PANEL at the start of the frame (R78, R103, R104). -/
theorem Panel.FrameWritten.start (fb : Memory) {p : Panel} (hmode : p.addrMode = 0x00#8) (hon : p.displayOn = true)
    (href : p.refused = none) :
    Panel.FrameWritten fb p.gddram 0 { p with
      colStart := 0#7, colEnd := 127#7, colPtr := 0#7, pageStart := 0#3, pageEnd := 3#3, pagePtr := 0#3,
      mode := some .command, rx := [] } where
  window := ⟨rfl, rfl, rfl, rfl, rfl, rfl⟩
  addrMode := hmode
  displayOn := hon
  refused := href
  shown := fun _ _ h => absurd h (Nat.not_lt_zero _)
  kept := fun _ _ _ => rfl

/-- The next byte of the frame is written at the pointer, which moves on to the byte after it (R105). -/
theorem Panel.FrameWritten.next {fb ram : Memory} {n : Nat} {p : Panel} (h : p.FrameWritten fb ram n) (hn : n < 512) :
    Panel.FrameWritten fb ram (n + 1) (p.store (fbRead fb n)).advance := by
  have hwindow : (p.store (fbRead fb n)).InFlushWindow n := { h.window with }
  obtain ⟨col, page, heq, hcol, hpage⟩ := hwindow.advance_eq
  have haddr := h.window.addr hn
  rw [heq]
  refine ⟨⟨hwindow.colStart, hwindow.colEnd, hwindow.pageStart, hwindow.pageEnd, hcol, hpage⟩, h.addrMode, h.displayOn,
    h.refused, fun q c hlt => ?_, fun q c hle => ?_⟩
  · by_cases hqc : gddramAddr q c = n
    · show gddramRead (gddramWrite _ _ _ _) q c = _
      unfold gddramRead gddramWrite
      rw [haddr, hqc, Memory.find_put_same, Option.getD_some]
    · rw [← h.shown q c (by omega)]
      exact gddramRead_gddramWrite_other _ _ (by omega)
  · rw [← h.kept q c (by omega)]
    exact gddramRead_gddramWrite_other _ _ (by omega)

/-- A slice that ends where it begins, or before, is empty. -/
theorem fbSlice_eq_nil (m : Memory) {lo hi : Nat} (h : hi ≤ lo) : fbSlice m lo hi = [] := by
  simp [fbSlice, Nat.sub_eq_zero_of_le h]

/-- A slice that is not empty begins with its first byte. -/
theorem fbSlice_cons (m : Memory) {lo hi : Nat} (h : lo < hi) : fbSlice m lo hi = fbRead m lo :: fbSlice m (lo + 1) hi := by
  rw [← fbSlice_append m (Nat.le_succ lo) h]
  simp [fbSlice]

/-- A slice of the frame is written byte after byte (R105). -/
theorem Panel.FrameWritten.storeAll_fbSlice {fb ram : Memory} {lo hi : Nat} {p : Panel} (h : p.FrameWritten fb ram lo)
    (hle : lo ≤ hi) (hhi : hi ≤ 512) : Panel.FrameWritten fb ram hi (p.storeAll (fbSlice fb lo hi)) := by
  induction hle using Nat.decreasingInduction generalizing p with
  | self =>
    rw [fbSlice_eq_nil fb le_rfl]
    exact h
  | of_succ lo hlt ih =>
    rw [fbSlice_cons fb hlt]
    exact ih (h.next (by omega))

/-! ## The data transactions -/

/-- Data transaction `k` carries the slice from where chunk `k` begins in the frame to where the next begins, the frame's end where
they lie past it (R76). -/
theorem dataBytes_eq_fbSlice (p : Config.Params) (m : Memory) (k : Nat) :
    dataBytes p m k = 0x40#8 :: fbSlice m (min 512 (k * p.dataChunk)) (min 512 ((k + 1) * p.dataChunk)) := by
  rw [dataBytes, chunkBytes, Nat.succ_mul]
  by_cases h : k * p.dataChunk ≤ 512
  · rw [Nat.min_eq_right h]
  · rw [Nat.min_eq_left (by omega), Nat.min_eq_left (by omega), fbSlice_eq_nil m (by omega), fbSlice_eq_nil m le_rfl]

/-- A data transaction answered `Ok` writes its slice of the frame (R69, R105). -/
theorem txWrite_frameWritten {s : State} {fb ram : Memory} {lo hi : Nat} (hok : txAnswer s = .ok)
    (h : s.panel.FrameWritten fb ram lo) (hle : lo ≤ hi) (hhi : hi ≤ 512) :
    (txWrite s (0x40#8 :: fbSlice fb lo hi)).panel.FrameWritten fb ram hi := by
  rw [txWrite_panel_ok s _ hok, panelReceive_data _ _ (by simpa using h.refused) (by simpa using h.addrMode)]
  have hstored := (h.withTransaction (some .data) (fbSlice fb lo hi)).storeAll_fbSlice hle hhi
  simpa [Panel.withRx] using hstored.withTransaction _ []

/-- FLUSH's data loop, its replies all `Ok`, writes the frame on to the end of its last chunk (R76, R80, R105). -/
theorem flushChunks_frameWritten {s : State} {ram : Memory} {k n : Nat}
    (hok : ∀ j, j < n → (s.upcoming j).answer = .ok)
    (h : s.panel.FrameWritten s.fb ram (min 512 (k * s.params.dataChunk))) :
    (flushChunks (List.range' k n) s).panel.FrameWritten s.fb ram (min 512 ((k + n) * s.params.dataChunk)) := by
  induction n generalizing s k with
  | zero => simpa [flushChunks] using h
  | succ n ih =>
    have h0 : txAnswer s = .ok := hok 0 (Nat.succ_pos n)
    have hnext := txWrite_frameWritten (s := s.setSeq (.flushData k)) h0 h
      (hi := min 512 ((k + 1) * s.params.dataChunk)) (by rw [Nat.succ_mul]; omega) (by omega)
    rw [← dataBytes_eq_fbSlice] at hnext
    rw [List.range'_succ, flushChunks, h0]
    have hrest := ih (s := txWrite (s.setSeq (.flushData k)) (dataBytes s.params s.fb k)) (k := k + 1)
      (fun j hj => by simpa [State.upcoming_setSeq] using hok (j + 1) (by omega)) (by simpa using hnext)
    simpa [Nat.add_assoc, Nat.add_comm 1 n] using hrest

/-! ## FLUSH -/

/-- After a FLUSH that returned `Ok`, PANEL in horizontal addressing mode holds the whole frame (R106). -/
theorem flushOp_frameWritten {s : State} (hwf : s.params.wf = true) (hok : (flushOp s).results.getLast? = some .ok)
    (hmode : s.panel.addrMode = 0x00#8) (hon : s.panel.displayOn = true) (href : s.panel.refused = none) :
    (flushOp s).panel.FrameWritten s.fb s.panel.gddram 512 := by
  obtain ⟨hlatch, hanswers⟩ := flushOp_answers_of_ok hok
  have h0 : txAnswer s = .ok := hanswers 0 (Nat.zero_le _)
  have hstart : (txWrite (s.setSeq .flushCmd) flushBytes).panel.FrameWritten s.fb s.panel.gddram 0 := by
    rw [txWrite_panel_ok (s.setSeq .flushCmd) _ h0, panelReceive_flushBytes _ (by simpa using href)]
    simpa using Panel.FrameWritten.start s.fb hmode hon href
  have hdata := flushChunks_frameWritten (s := txWrite (s.setSeq .flushCmd) flushBytes) (k := 0) (n := chunkCount s.params)
    (fun j hj => by simpa [State.upcoming_setSeq] using hanswers (j + 1) hj) (by simpa using hstart)
  rw [flushOp, State.ready, if_pos hlatch, flushFrame, h0, List.range_eq_range']
  simpa [Nat.min_eq_left (frame_le_chunks hwf)] using hdata

/-- Settles O40: INIT leaves PANEL on, unmarked, in horizontal addressing mode and with its display RAM as it was, so the FLUSH writes
the whole frame, whose last byte brings the pointer back. -/
theorem panelShowsFramebuffer : Obligations.PanelShowsFramebuffer := by
  unfold Obligations.PanelShowsFramebuffer
  intro s t v u href hwf hinit htok hpanel hparams hflush huok
  obtain rfl := Host.Outcome.next.inj hinit
  obtain rfl := exec_flush_next hflush
  obtain ⟨-, -, hinitParams, -⟩ := initOp_frame s
  obtain ⟨hfb, -⟩ := flushOp_frame v
  rw [initOp_panel_of_ok href htok] at hpanel
  have hframe : (flushOp v).panel.FrameWritten v.fb s.panel.gddram 512 := by
    have h := flushOp_frameWritten (by rw [hparams, hinitParams]; exact hwf) huok (by rw [hpanel]; rfl) (by rw [hpanel]; rfl)
      (by rw [hpanel]; exact href)
    rwa [hpanel] at h
  refine ⟨hfb, ?shown, ?kept, BitVec.eq_of_toNat_eq hframe.window.colPtr, BitVec.eq_of_toNat_eq hframe.window.pagePtr,
    hframe.displayOn, hframe.refused⟩
  case shown =>
    intro p c hp hc
    rw [hfb, Nat.add_comm]
    exact hframe.shown p c (by unfold gddramAddr; omega)
  case kept =>
    intro p c hp _ _
    exact hframe.kept p c (by unfold gddramAddr; omega)

end Sys2Proof.Machine
end

section
/-! SET_PIXEL on the bytes of `FB`, and the frame DRAW_TEXT leaves (43_raster.md R107 to R115). -/

namespace Sys2Proof.Machine

/-! ## SET_PIXEL -/

/-- SET_PIXEL is one pixel write (R111). -/
theorem exec_setPixel (x y : Int) (on : Bool) (s : State) :
    exec (.setPixel x y on) s = .next { s with fb := putPixel s.fb x y on, results := s.results ++ [.ok] } := rfl

/-- SET_PIXEL out of bounds writes nothing and returns `Ok` (R107, R111). -/
theorem exec_setPixel_oob {x y : Int} (on : Bool) (s : State) (h : inBounds x y = false) :
    exec (.setPixel x y on) s = .next { s with results := s.results ++ [.ok] } := by
  rw [exec_setPixel, putPixel_oob s.fb on h]

/-- A pixel write in bounds changes one bit of its own byte (R107). -/
theorem fbRead_putPixel_self {x y : Int} (m : Memory) (on : Bool) (h : inBounds x y = true) :
    fbRead (putPixel m x y on) (byteIndex x y) = withBit (fbRead m (byteIndex x y)) (bitIndex y) on := by
  rw [fbRead_putPixel, if_pos ⟨h, rfl⟩]

/-- A pixel write changes no byte but its own (R107). -/
theorem fbRead_putPixel_other {x y : Int} (m : Memory) (on : Bool) {i : Nat} (h : i ≠ byteIndex x y) :
    fbRead (putPixel m x y on) i = fbRead m i := by
  rw [fbRead_putPixel, if_neg fun hi => h hi.2]

/-- Settles O13: in bounds the pixel write changes one bit of one byte, out of bounds it is clipped. -/
theorem setPixelWritesOneBit : Obligations.SetPixelWritesOneBit := by
  unfold Obligations.SetPixelWritesOneBit
  refine ⟨fun s x y on hx hy => ?inside, fun s x y on h => ?outside⟩
  case inside =>
    have hin : inBounds (x : Int) y = true := inBounds_iff.mpr (by omega)
    have hbit : y % 8 < 8 := Nat.mod_lt y (by decide)
    have hself := fbRead_putPixel_self s.fb on hin
    rw [byteIndex_natCast, bitIndex_natCast] at hself
    refine ⟨putPixel s.fb x y on, exec_setPixel x y on s, ?_, fun b hb hne => ?_, fun i hi => ?_⟩
    · rw [hself, withBit_getLsbD _ hbit on _ hbit, if_pos rfl]
    · rw [hself, withBit_getLsbD _ hbit on b hb, if_neg hne]
    · exact fbRead_putPixel_other s.fb on (by rwa [byteIndex_natCast])
  case outside =>
    exact exec_setPixel_oob on s (Bool.eq_false_iff.mpr fun hin => by rw [inBounds_iff] at hin; omega)

/-! ## What DRAW_TEXT leaves outside the frame -/

/-- The addresses past the frame belong to no pixel (R31). -/
theorem fbRead_putPixel_beyond (m : Memory) (x y : Int) (v : Bool) {i : Nat} (hi : 512 ≤ i) :
    fbRead (putPixel m x y v) i = fbRead m i := by
  rw [fbRead_putPixel, if_neg]
  rintro ⟨hin, rfl⟩
  exact absurd (byteIndex_lt hin) (by omega)

theorem fbRead_blitPixel_beyond (p : Config.Params) (x0 y : Int) (cp : Nat) (m : Memory) (r c : Nat) {i : Nat} (hi : 512 ≤ i) :
    fbRead (blitPixel p x0 y cp m r c) i = fbRead m i := by
  unfold blitPixel
  split
  · exact fbRead_putPixel_beyond m _ _ true hi
  · split
    · exact fbRead_putPixel_beyond m _ _ false hi
    · rfl

theorem fbRead_blitGlyph_beyond (p : Config.Params) (m : Memory) (x0 y : Int) (cp : Nat) {i : Nat} (hi : 512 ≤ i) :
    fbRead (blitGlyph p m x0 y cp) i = fbRead m i :=
  have hrow (m : Memory) (r : Nat) : fbRead (blitRow p x0 y cp m r) i = fbRead m i :=
    foldl_range_away (fun m c => blitPixel p x0 y cp m r c) (fbRead · i)
      (fun m c => fbRead_blitPixel_beyond p x0 y cp m r c hi) 8 m
  foldl_range_away (fun m r => blitRow p x0 y cp m r) (fbRead · i) hrow 13 m

theorem fbRead_drawText_beyond (p : Config.Params) (m : Memory) (x y : Int) (cps : List Nat) {i : Nat} (hi : 512 ≤ i) :
    fbRead (drawText p m x y cps) i = fbRead m i := by
  induction cps generalizing m x with
  | nil => rfl
  | cons cp cps ih => rw [drawText, ih, fbRead_blitGlyph_beyond p m x y cp hi]

/-! ## The frame after a text -/

/-- The cells of `n` characters, as inequalities (R113). -/
theorem inCells_iff {x y : Int} {n : Nat} {px py : Int} :
    inCells x y n px py = true ↔ x ≤ px ∧ px < x + 8 * n ∧ y - 12 ≤ py ∧ py ≤ y := by
  simp [inCells, and_assoc]

/-- Outside its cells a text leaves the pixel (R113). -/
theorem textPixel_outside {p : Config.Params} {x y : Int} {cps : List Nat} {old : Bool} {px py : Int}
    (h : ¬ (x ≤ px ∧ px < x + 8 * cps.length ∧ y - 12 ≤ py ∧ py ≤ y)) : textPixel p x y cps old px py = old := by
  rw [textPixel, if_neg (by rwa [inCells_iff])]

/-- Inside them character `(px - x) / 8` decides the pixel (R109, R113). -/
theorem textPixel_inside {p : Config.Params} {x y : Int} {cps : List Nat} {old : Bool} {px py : Int}
    (h : x ≤ px ∧ px < x + 8 * cps.length ∧ y - 12 ≤ py ∧ py ≤ y) :
    textPixel p x y cps old px py =
      blitOver p ((cps[((px - x) / 8).toNat]?).getD 0) ((px - x) % 8).toNat (py - (y - 12)).toNat old := by
  rw [textPixel, if_pos (by rwa [inCells_iff])]
  rfl

/-- A glyph is a text of one character (R109, R113). -/
theorem pixel_blitGlyph_eq_textPixel (p : Config.Params) (m : Memory) (x y : Int) (cp : Nat) {px py : Int}
    (hp : inBounds px py = true) :
    pixel (blitGlyph p m x y cp) px py = textPixel p x y [cp] (pixel m px py) px py := by
  rw [pixel_blitGlyph p m x y cp hp]
  by_cases h : x ≤ px ∧ px < x + 8 ∧ y - 12 ≤ py ∧ py ≤ y
  · have hchar : ((px - x) / 8).toNat = 0 := by omega
    have hcol : (px - x) % 8 = px - x := by omega
    rw [if_pos h, textPixel_inside (by simpa using h), hchar, hcol]
    rfl
  · rw [if_neg h, textPixel_outside (by simpa using h)]

/-- A text is its first character and then the rest, eight columns to the right: their cells do not meet (R113). -/
theorem textPixel_cons (p : Config.Params) (x y : Int) (cp : Nat) (cps : List Nat) (old : Bool) (px py : Int) :
    textPixel p x y (cp :: cps) old px py = textPixel p (x + 8) y cps (textPixel p x y [cp] old px py) px py := by
  by_cases hfirst : px < x + 8
  · rw [textPixel_outside (x := x + 8) (by omega)]
    by_cases h : x ≤ px ∧ y - 12 ≤ py ∧ py ≤ y
    · have hchar : ((px - x) / 8).toNat = 0 := by omega
      rw [textPixel_inside (by rw [List.length_cons]; omega), textPixel_inside (by rw [List.length_singleton]; omega), hchar]
      rfl
    · rw [textPixel_outside (by omega), textPixel_outside (by omega)]
  · rw [textPixel_outside (cps := [cp]) (by rw [List.length_singleton]; omega)]
    by_cases h : px < x + 8 + 8 * cps.length ∧ y - 12 ≤ py ∧ py ≤ y
    · have hchar : ((px - x) / 8).toNat = ((px - (x + 8)) / 8).toNat + 1 := by omega
      have hcol : (px - x) % 8 = (px - (x + 8)) % 8 := by omega
      rw [textPixel_inside (by rw [List.length_cons]; omega), textPixel_inside (by omega), hchar, hcol,
        List.getElem?_cons_succ]
    · rw [textPixel_outside (by rw [List.length_cons]; omega), textPixel_outside (by omega)]

/-- DRAW_TEXT's loop, seen at any pixel in bounds (R113). -/
theorem pixel_drawText (p : Config.Params) (m : Memory) (x y : Int) (cps : List Nat) {px py : Int}
    (hp : inBounds px py = true) :
    pixel (drawText p m x y cps) px py = textPixel p x y cps (pixel m px py) px py := by
  induction cps generalizing m x with
  | nil => rw [drawText, textPixel_outside (by rw [List.length_nil]; omega)]
  | cons cp cps ih => rw [drawText, ih, pixel_blitGlyph_eq_textPixel p m x y cp hp, ← textPixel_cons]

/-- Settles O17: by `pixel_drawText`, an induction on the text that draws its first character and moves on. -/
theorem drawTextDrawsGlyphs : Obligations.DrawTextDrawsGlyphs := by
  unfold Obligations.DrawTextDrawsGlyphs
  intro s x y cps hscalar
  exact ⟨drawText s.params s.fb x y cps, execDrawText_scalar s hscalar,
    fun _ _ hp => pixel_drawText s.params s.fb x y cps hp,
    fun _ hi => fbRead_drawText_beyond s.params s.fb x y cps hi⟩

/-! ## The width of a text -/

/-- After a DRAW_TEXT that ran, a pixel in bounds is as the glyphs say (R113). -/
theorem pixel_of_exec_drawText {x y : Int} {cps : List Nat} {s t : State} (h : exec (.drawText x y cps) s = .next t)
    {px py : Int} (hp : inBounds px py = true) :
    pixel t.fb px py = textPixel s.params x y cps (pixel s.fb px py) px py := by
  obtain ⟨-, rfl⟩ := execDrawText_next h
  exact pixel_drawText s.params s.fb x y cps hp

/-- Left of column `x + 8n` only the first `n` characters decide (R113). -/
theorem textPixel_take {x px : Int} {n : Nat} (h : px < x + 8 * n) (p : Config.Params) (y : Int) (cps : List Nat) (old : Bool)
    (py : Int) : textPixel p x y (cps.take n) old px py = textPixel p x y cps old px py := by
  have hlen : (cps.take n).length = min n cps.length := List.length_take
  by_cases hin : x ≤ px ∧ px < x + 8 * cps.length ∧ y - 12 ≤ py ∧ py ≤ y
  · rw [textPixel_inside hin, textPixel_inside (by omega), List.getElem?_take_of_lt (by omega)]
  · rw [textPixel_outside hin, textPixel_outside (by omega)]

/-- Settles O18: the pixel lies right of the text's cells, and always left of the seventeenth character's. -/
theorem textWidthBound : Obligations.TextWidthBound := by
  unfold Obligations.TextWidthBound
  intro s t u y cps ht hu px py hp
  obtain ⟨-, hpx, -, -⟩ := inBounds_iff.mp hp
  rw [pixel_of_exec_drawText ht hp, pixel_of_exec_drawText hu hp]
  exact ⟨fun hright => textPixel_outside (by omega), (textPixel_take (by omega) s.params y cps _ py).symm⟩

end Sys2Proof.Machine
end

section
/-! The facade: SHOW and FACADE_CLEAR as their host operations one after the other (44_facade.md R117, R119). -/

namespace Sys2Proof.Machine

/-! ## The operations they expand to -/

/-- An operation that answers a next state hands it to the operations after it (R44). -/
theorem runOps_cons_of_next {i : Instr} {is : List Instr} {s t : State} (h : exec i s = .next t) :
    runOps (i :: is) s = runOps is t := by
  rw [runOps, h]

/-- CLEAR answers with a frame of zero bytes and the result `Ok` (R110). -/
theorem exec_clear (s : State) : exec .clear s = .next ((s.setFb clearedFb).ret .ok) := rfl

/-- DRAW_TEXT of Unicode scalar values answers with its loop's frame and the result `Ok` (R113). -/
theorem exec_drawText_scalar {x y : Int} {cps : List Nat} (s : State) (h : cps.all isScalar = true) :
    exec (.drawText x y cps) s = .next ((s.setFb (drawText s.params s.fb x y cps)).ret .ok) :=
  execDrawText_scalar s h

/-- FLUSH answers with the whole operation (R80). -/
theorem exec_flush (s : State) : exec .flush s = .next (flushOp s) := rfl

/-- FLUSH leaves `FB` as it is (R80). -/
@[simp] theorem flushOp_fb (s : State) : (flushOp s).fb = s.fb := (flushOp_frame s).1

/-- Before INIT FLUSH is its error and nothing else (R80, R128). -/
theorem flushOp_of_latch_false {s : State} (h : s.latch = false) : flushOp s = s.raise .uninitialized := by
  rw [flushOp, State.ready, h, if_neg Bool.false_ne_true]

/-! ## SHOW -/

/-- The frame SHOW composes: both lines drawn on a cleared buffer (R117). -/
def showFrame (p : Config.Params) (a b : List Nat) : Memory := drawText p (drawText p clearedFb 0 15 a) 0 30 b

/-- Every pixel of a cleared frame is off (R110). -/
theorem pixel_clearedFb {px py : Int} (hp : inBounds px py = true) : pixel clearedFb px py = false := by
  rw [pixel, fbRead_clearedFb (byteIndex_lt hp), BitVec.getLsbD_zero]

/-- A pixel of SHOW's frame is what the second line leaves of what the first leaves of an off pixel (R113, R117). -/
theorem pixel_showFrame (p : Config.Params) (a b : List Nat) {px py : Int} (hp : inBounds px py = true) :
    pixel (showFrame p a b) px py = textPixel p 0 30 b (textPixel p 0 15 a false px py) px py := by
  rw [showFrame, pixel_drawText p _ 0 30 b hp, pixel_drawText p _ 0 15 a hp, pixel_clearedFb hp]

/-- SHOW's operations on scalar values come to FLUSH of the composed frame, after three results `Ok` (R117). -/
theorem runOps_showOps {a b : List Nat} (s : State) (ha : a.all isScalar = true) (hb : b.all isScalar = true) :
    runOps (showOps a b) s =
      .next (flushOp { s with fb := showFrame s.params a b, results := s.results ++ [.ok, .ok, .ok] }) := by
  have hresults : s.results ++ [.ok, .ok, .ok] = s.results ++ [.ok] ++ [.ok] ++ [.ok] := by simp
  rw [hresults, showOps, runOps_cons_of_next (exec_clear s), runOps_cons_of_next (exec_drawText_scalar _ ha),
    runOps_cons_of_next (exec_drawText_scalar _ hb), runOps_cons_of_next (exec_flush _)]
  rfl

/-- SHOW of scalar values flushes the composed frame and returns that FLUSH's result (R117). -/
theorem facadeShow_scalar {a b : List Nat} (s : State) (ha : a.all isScalar = true) (hb : b.all isScalar = true) :
    facadeShow a b s =
      .next (flushOp { s with fb := showFrame s.params a b, results := s.results ++ [.ok, .ok, .ok] },
        (flushOp { s with fb := showFrame s.params a b, results := s.results ++ [.ok, .ok, .ok] }).results.getLast?) := by
  rw [facadeShow, runOps_showOps s ha hb]
  rfl

/-- Settles O51: SHOW is FLUSH of `showFrame`, whose pixels are the two texts' over off pixels. -/
theorem showComposesThenFlushes : Obligations.ShowComposesThenFlushes := by
  unfold Obligations.ShowComposesThenFlushes
  intro s a b ha hb
  exact ⟨showFrame s.params a b, _, exec_flush _, facadeShow_scalar s ha hb, flushOp_fb _,
    fun _ _ hp => pixel_showFrame s.params a b hp⟩

/-! ## FACADE_CLEAR -/

/-- FACADE_CLEAR flushes a cleared frame and returns `Ok` (R119). -/
theorem facadeClear_eq (s : State) : facadeClear s = .next (flushOp ((s.setFb clearedFb).ret .ok), .ok) := by
  rw [facadeClear, facadeClearOps, runOps_cons_of_next (exec_clear s), runOps_cons_of_next (exec_flush _)]
  rfl

/-- The only state FACADE_CLEAR answers with (R119). -/
theorem facadeClear_next {s t : State} {r : OpResult} (h : facadeClear s = .next (t, r)) :
    t = flushOp ((s.setFb clearedFb).ret .ok) := by
  rw [facadeClear_eq, Host.Outcome.next.injEq, Prod.mk.injEq] at h
  exact h.1.symm

/-- FACADE_CLEAR before INIT makes no transaction, and BLOCK stays uninitialized (R119). -/
theorem facadeClear_of_latch_false {s t : State} {r : OpResult} (h : facadeClear s = .next (t, r)) (hl : s.latch = false) :
    t.tlog = s.tlog ∧ t.latch = false := by
  rw [facadeClear_next h, flushOp_of_latch_false (by simpa using hl)]
  exact ⟨by simp, by simpa using hl⟩

/-- FACADE_CLEAR writes neither the slave address nor the configuration (R13, R18). -/
theorem facadeClear_addr_params {s t : State} {r : OpResult} (h : facadeClear s = .next (t, r)) :
    t.slaveAddr = s.slaveAddr ∧ t.params = s.params := by
  obtain ⟨-, -, haddr, hparams, -⟩ := flushOp_frame ((s.setFb clearedFb).ret .ok)
  rw [facadeClear_next h]
  exact ⟨haddr, hparams⟩

/-- A FACADE_CLEAR whose FLUSH returned `Ok` has sent the command block and the chunks of a cleared frame (R81, R119). -/
theorem facadeClear_tlog_of_ok {s t : State} {r : OpResult} (h : facadeClear s = .next (t, r))
    (hok : t.results.getLast? = some .ok) :
    t.tlog = s.tlog ++ ⟨s.slaveAddr, flushBytes, .ok⟩ :: flushDataTxs (s.setFb clearedFb) := by
  obtain rfl := facadeClear_next h
  exact flushOp_tlog_of_ok hok

/-- Settles O55: FACADE_CLEAR is FLUSH of a cleared frame, its result discarded; the list a successful one sends depends on that
frame, the address and the configuration alone, which the first one leaves to the second. -/
theorem facadeClearSuppressesErrors : Obligations.FacadeClearSuppressesErrors := by
  unfold Obligations.FacadeClearSuppressesErrors
  refine ⟨fun s => ?once, fun s t u r q ht hu => ⟨fun htok huok => ?sameList, fun hl => ?beforeInit⟩⟩
  case once =>
    have hfb : (flushOp ((s.setFb clearedFb).ret .ok)).fb = clearedFb := flushOp_fb _
    refine ⟨_, facadeClear_eq s, fun i hi => ?_, ?_, fun hl => (facadeClear_of_latch_false (facadeClear_eq s) hl).1⟩
    · rw [hfb, fbRead_clearedFb hi]
    · rw [hfb]
      exact exec_flush _
  case sameList =>
    obtain ⟨haddr, hparams⟩ := facadeClear_addr_params ht
    refine ⟨_, facadeClear_tlog_of_ok ht htok, ?_⟩
    rw [facadeClear_tlog_of_ok hu huok, haddr,
      flushDataTxs_congr (s := s.setFb clearedFb) (u := t.setFb clearedFb) rfl haddr hparams]
  case beforeInit =>
    obtain ⟨htlog, htlatch⟩ := facadeClear_of_latch_false ht hl
    exact (facadeClear_of_latch_false hu htlatch).1.trans htlog

end Sys2Proof.Machine
end

section
/-! Errors: FLUSH before INIT, and the first failing transaction of INIT and FLUSH (60_exceptions.md R123, R124, R128). -/

namespace Sys2Proof.Machine

/-! ## Who returns `Uninitialized` -/

/-- A control byte or a command returns no result to HOST. -/
theorem exec_panel_results {i : Instr} {s t : State} (hi : i.port ≠ .host) (h : exec i s = .next t) : t.results = s.results := by
  rw [← panelExec_eq_exec s hi] at h
  obtain ⟨ht, -⟩ := panelExec_next h
  rw [ht, State.withPanel_results]

/-- FLUSH's data loop ends with `Ok` or with a transport error (R80, R124). -/
theorem flushChunks_results_ne_uninitialized (ks : List Nat) (s : State) :
    (flushChunks ks s).results.getLast? ≠ some (.err .uninitialized) := by
  induction ks generalizing s with
  | nil => simp [flushChunks]
  | cons k ks ih =>
    unfold flushChunks
    split
    · exact ih _
    · simp

/-- Past the latch test so does FLUSH (R80, R123). -/
theorem flushOp_results_ne_uninitialized {s : State} (hl : s.latch = true) :
    (flushOp s).results.getLast? ≠ some (.err .uninitialized) := by
  rw [flushOp, State.ready, if_pos hl, flushFrame]
  split
  · exact flushChunks_results_ne_uninitialized _ _
  · simp

/-- INIT returns `Ok` or a transport error (R79, R124). -/
theorem initOp_results_ne_uninitialized (s : State) : (initOp s).results.getLast? ≠ some (.err .uninitialized) := by
  rw [initOp_results, List.getLast?_concat]
  cases txAnswer s <;> simp

/-- Only FLUSH, with the latch at 0, adds the result `Uninitialized` (R123). -/
theorem exec_uninitialized {i : Instr} {s t : State} (h : exec i s = .next t)
    (hres : t.results = s.results ++ [.err .uninitialized]) : i = .flush ∧ s.latch = false := by
  have hlast : t.results.getLast? = some (.err .uninitialized) := by rw [hres, List.getLast?_concat]
  by_cases hi : i.port = .host
  · obtain ⟨-, rfl⟩ | ⟨x, y, on, -, rfl⟩ | ⟨x, y, cps, -, -, rfl⟩ | ⟨k, -, -, rfl⟩ | ⟨-, rfl⟩ | ⟨rfl, rfl⟩ :=
      exec_host_cases hi h
    case inr.inr.inr.inr.inl => exact absurd hlast (initOp_results_ne_uninitialized s)
    case inr.inr.inr.inr.inr =>
      exact ⟨rfl, Bool.eq_false_iff.mpr fun hl => flushOp_results_ne_uninitialized hl hlast⟩
    all_goals simp at hlast
  · rw [exec_panel_results hi h] at hres
    simp at hres

/-- Settles O26: with the latch at 0 FLUSH is its error alone; every other operation's last result is another, and PANEL's
instructions return none. -/
theorem flushBeforeInit : Obligations.FlushBeforeInit := by
  unfold Obligations.FlushBeforeInit
  refine ⟨fun s hl => ?_, fun _ _ _ => exec_uninitialized⟩
  rw [exec_flush, flushOp_of_latch_false hl]
  rfl

/-! ## The first failing transaction -/

/-- FLUSH's data loop when its transaction `j`, for chunk `k`, is the first to fail: one entry for each chunk up to it and none after,
and its error as the result (R80, R124). -/
theorem flushChunks_err {ks : List Nat} {s : State} {j k : Nat} {e : IoError} (hk : ks[j]? = some k)
    (hok : ∀ i, i < j → (s.upcoming i).answer = .ok) (herr : (s.upcoming j).answer = .err e) :
    (flushChunks ks s).tlog = s.tlog ++ ((ks.take j).map (fun k => ⟨s.slaveAddr, dataBytes s.params s.fb k, .ok⟩) ++
        [⟨s.slaveAddr, dataBytes s.params s.fb k, .err e⟩]) ∧
      (flushChunks ks s).results = s.results ++ [.err (.io e)] := by
  induction ks generalizing s j with
  | nil => simp at hk
  | cons k' ks ih =>
    cases j with
    | zero =>
      obtain rfl : k' = k := by simpa using hk
      have h0 : txAnswer s = .err e := herr
      simp [flushChunks, h0]
    | succ j =>
      have h0 : txAnswer s = .ok := hok 0 (Nat.succ_pos j)
      have hrest := ih (s := txWrite (s.setSeq (.flushData k')) (dataBytes s.params s.fb k')) (by simpa using hk)
        (fun i hi => by simpa [State.upcoming_setSeq] using hok (i + 1) (by omega))
        (by simpa [State.upcoming_setSeq] using herr)
      simpa [flushChunks, h0] using hrest

/-- The bytes of FLUSH's transaction `j`: the command block, then the chunks in order (R80). -/
def flushTxBytes (s : State) : Nat → List Byte
  | 0 => flushBytes
  | k + 1 => dataBytes s.params s.fb k

/-- They are those of the entry a FLUSH that goes well makes there (R80). -/
theorem flushTxs_bytes (s : State) {n j : Nat} (hj : j ≤ n) :
    ((flushTxs s n)[j]?).map (·.bytes) = some (flushTxBytes s j) := by
  cases j with
  | zero => rfl
  | succ k => simp [flushTxs, flushTxBytes, List.getElem?_range (Nat.lt_of_succ_le hj)]

/-- A FLUSH whose transaction `j` is the first to fail has made the ones before it, as when all goes well, and that one; its result
is the error (R80, R124). -/
theorem flushOp_err {s : State} {j : Nat} {e : IoError} (hl : s.latch = true) (hj : j ≤ chunkCount s.params)
    (hok : ∀ i, i < j → (s.upcoming i).answer = .ok) (herr : (s.upcoming j).answer = .err e) :
    (flushOp s).tlog = s.tlog ++ ((flushTxs s (chunkCount s.params)).take j ++ [⟨s.slaveAddr, flushTxBytes s j, .err e⟩]) ∧
      (flushOp s).results = s.results ++ [.err (.io e)] := by
  rw [flushOp, State.ready, if_pos hl, flushFrame]
  cases j with
  | zero =>
    have h0 : txAnswer s = .err e := herr
    simp [h0, flushTxBytes]
  | succ j =>
    have h0 : txAnswer s = .ok := hok 0 (Nat.succ_pos j)
    have hchunks := flushChunks_err (ks := List.range (chunkCount s.params)) (s := txWrite (s.setSeq .flushCmd) flushBytes)
      (List.getElem?_range (Nat.lt_of_succ_le hj))
      (fun i hi => by simpa [State.upcoming_setSeq] using hok (i + 1) (by omega))
      (by simpa [State.upcoming_setSeq] using herr)
    simpa [h0, flushTxs, flushTxBytes, ← List.map_take] using hchunks

/-- Settles O29: INIT makes one transaction whatever its answer; FLUSH's command transaction and its data loop each stop at the first
error. -/
theorem firstErrorEndsOperation : Obligations.FirstErrorEndsOperation := by
  unfold Obligations.FirstErrorEndsOperation
  refine ⟨fun s k herr => ?init, fun s j k hl hj hok herr => ?flush⟩
  case init =>
    obtain ⟨hfb, -, -, -, hseq, htlog, -⟩ := initOp_frame s
    obtain ⟨hlatch, hres⟩ := initOp_err herr
    rw [show txAnswer s = .err k from herr] at htlog
    exact ⟨initOp s, exec_init s, htlog, hres, hseq, hfb, hlatch⟩
  case flush =>
    obtain ⟨hfb, hlatch, haddr, hparams, hhost, hseq⟩ := flushOp_frame s
    obtain ⟨htlog, hres⟩ := flushOp_err hl hj hok herr
    exact ⟨flushOp s, flushTxBytes s j, exec_flush s, flushTxs_bytes s hj, htlog, hres, hseq, hfb, hlatch.trans hl, haddr, hparams,
      hhost⟩

end Sys2Proof.Machine
end

section
/-! The decoders: what HOST's port accepts and refuses, and decoding against encoding at all three ports (30_encoding.md R51 to R63). -/

namespace Sys2Proof

/-! ## The fields of a host operation -/

/-- Eight bytes are the two coordinates of SET_PIXEL or DRAW_TEXT (R53, R54). -/
theorem coordinates_of_length {xy : List Byte} (h : xy.length = 8) :
    ∃ wx wy : BitVec 32, xy = le32Bytes wx ++ le32Bytes wy := by
  match xy, h with
  | [x0, x1, x2, x3, y0, y1, y2, y3], _ =>
    exact ⟨le32 x0 x1 x2 x3, le32 y0 y1 y2 y3, by rw [le32Bytes_le32, le32Bytes_le32]; rfl⟩

/-- SET_PIXEL's operands are read from their fields (R53). -/
theorem decodePixel_fields (wx wy : BitVec 32) (on : Byte) (rest : List Byte) :
    decodePixel (le32Bytes wx ++ (le32Bytes wy ++ on :: rest)) = pixelOperation wx.toInt wy.toInt on rest := by
  obtain ⟨x0, x1, x2, x3, hx, rfl⟩ := le32Bytes_append wx (le32Bytes wy ++ on :: rest)
  obtain ⟨y0, y1, y2, y3, hy, rfl⟩ := le32Bytes_append wy (on :: rest)
  rw [hx, hy, decodePixel]

/-- DRAW_TEXT's operands are read from their fields (R54). -/
theorem decodeText_fields (wx wy wn : BitVec 32) (bs : List Byte) :
    decodeText (le32Bytes wx ++ (le32Bytes wy ++ (le32Bytes wn ++ bs))) = textOperation wx.toInt wy.toInt wn.toNat bs := by
  obtain ⟨x0, x1, x2, x3, hx, rfl⟩ := le32Bytes_append wx (le32Bytes wy ++ (le32Bytes wn ++ bs))
  obtain ⟨y0, y1, y2, y3, hy, rfl⟩ := le32Bytes_append wy (le32Bytes wn ++ bs)
  obtain ⟨n0, n1, n2, n3, hn, rfl⟩ := le32Bytes_append wn bs
  rw [hx, hy, hn, decodeText]

/-- READ_FB's index is read from its field (R55). -/
theorem decodeRead_field {i : Nat} (h : i < 65536) (rest : List Byte) :
    decodeRead (le16Bytes (BitVec.ofNat 16 i) ++ rest) = readOperation i rest := by
  obtain ⟨i0, i1, hi, hw⟩ := le16Bytes_append (BitVec.ofNat 16 i) rest
  rw [hi, decodeRead, hw, toNat_ofNat16 h]

/-- A code point that fits its field, and is a scalar value, is read before the ones after it (R54). -/
theorem decodeCodePoints_cons {v : Nat} (hv : v < 4294967296) (n : Nat) (bs : List Byte) :
    decodeCodePoints (n + 1) (le32Bytes (BitVec.ofNat 32 v) ++ bs) =
      if isScalar v then (decodeCodePoints n bs).map (Prod.map (v :: ·) id) else .error (.codePoint v) := by
  obtain ⟨b0, b1, b2, b3, hb, hw⟩ := le32Bytes_append (BitVec.ofNat 32 v) bs
  rw [hb, decodeCodePoints, hw, toNat_ofNat32 hv]
  cases decodeCodePoints n bs <;> rfl

/-- Scalar values are read back from their bytes (R54). -/
theorem decodeCodePoints_encode {cps : List Nat} (h : cps.all isScalar = true) (rest : List Byte) :
    decodeCodePoints cps.length (encodeCodePoints cps ++ rest) = .ok (cps, rest) := by
  induction cps with
  | nil => rfl
  | cons v cps ih =>
    obtain ⟨hv, hcps⟩ := Bool.and_eq_true_iff.mp h
    rw [encodeCodePoints, List.append_assoc, List.length_cons, decodeCodePoints_cons (isScalar_lt hv), if_pos hv, ih hcps]
    rfl

/-- The first value that is no scalar value is refused by name (R54, R137). -/
theorem decodeCodePoints_bad {good bad : List Nat} {v : Nat} (hgood : good.all isScalar = true) (hbad : isScalar v = false)
    (hv : v < 4294967296) (rest : List Byte) :
    decodeCodePoints (good ++ v :: bad).length (encodeCodePoints (good ++ v :: bad) ++ rest) = .error (.codePoint v) := by
  induction good with
  | nil =>
    rw [List.nil_append, encodeCodePoints, List.append_assoc, List.length_cons, decodeCodePoints_cons hv, hbad,
      if_neg Bool.false_ne_true]
  | cons u good ih =>
    obtain ⟨hu, hgood⟩ := Bool.and_eq_true_iff.mp hgood
    rw [List.cons_append, encodeCodePoints, List.append_assoc, List.length_cons, decodeCodePoints_cons (isScalar_lt hu), if_pos hu,
      ih hgood]
    rfl

/-- Code points that were read are scalar values, as many as asked for, and their bytes are the ones taken (R54). -/
theorem decodeCodePoints_ok {n : Nat} {bs rest : List Byte} {cps : List Nat} (h : decodeCodePoints n bs = .ok (cps, rest)) :
    cps.length = n ∧ cps.all isScalar = true ∧ bs = encodeCodePoints cps ++ rest := by
  induction n generalizing bs cps with
  | zero =>
    obtain ⟨rfl, rfl⟩ := Prod.mk.inj (Except.ok.inj h)
    exact ⟨rfl, rfl, rfl⟩
  | succ n ih =>
    match bs, h with
    | b0 :: b1 :: b2 :: b3 :: bs, h =>
      rw [decodeCodePoints] at h
      split at h
      · next hv =>
        split at h
        · next hd =>
          obtain ⟨rfl, rfl⟩ := Prod.mk.inj (Except.ok.inj h)
          obtain ⟨hlen, hall, hbs⟩ := ih hd
          refine ⟨by rw [List.length_cons, hlen], Bool.and_eq_true_iff.mpr ⟨hv, hall⟩, ?_⟩
          rw [encodeCodePoints, BitVec.ofNat_toNat, BitVec.setWidth_eq, le32Bytes_le32, hbs]
          rfl
        · cases h
      · cases h

/-! ## What HOST's port accepts -/

/-- A SET_PIXEL that was read had the `on` byte of its encoding (R53). -/
theorem pixelOperation_ok {x y : Int} {on : Byte} {bs rest : List Byte} {i : Instr} (h : pixelOperation x y on bs = .ok (i, rest)) :
    ∃ v : Bool, i = .setPixel x y v ∧ bs = rest ∧ on = if v then 0x01#8 else 0x00#8 := by
  unfold pixelOperation at h
  split_ifs at h with h0 h1
  · obtain ⟨rfl, rfl⟩ := Prod.mk.inj (Except.ok.inj h)
    exact ⟨false, rfl, rfl, h0⟩
  · obtain ⟨rfl, rfl⟩ := Prod.mk.inj (Except.ok.inj h)
    exact ⟨true, rfl, rfl, h1⟩

/-- A SET_PIXEL that was read is well-formed, and its encoding is what was taken (R53). -/
theorem decodePixel_ok {bs rest : List Byte} {i : Instr} (h : decodePixel bs = .ok (i, rest)) :
    i.wf = true ∧ 0x02#8 :: bs = encode i ++ rest := by
  unfold decodePixel at h
  split at h
  · obtain ⟨v, rfl, rfl, rfl⟩ := pixelOperation_ok h
    refine ⟨Bool.and_eq_true_iff.mpr ⟨isS32_toInt _, isS32_toInt _⟩, ?_⟩
    simp only [encode, BitVec.ofInt_toInt, le32Bytes_le32]
    rfl
  · cases h

/-- A DRAW_TEXT that was read is well-formed, and its encoding is what was taken (R54). -/
theorem decodeText_ok {bs rest : List Byte} {i : Instr} (h : decodeText bs = .ok (i, rest)) :
    i.wf = true ∧ 0x03#8 :: bs = encode i ++ rest := by
  unfold decodeText at h
  split at h
  · next x0 x1 x2 x3 y0 y1 y2 y3 n0 n1 n2 n3 bs =>
    unfold textOperation at h
    split_ifs at h
    split at h
    · next cps rest' hd =>
      obtain ⟨rfl, rfl⟩ := Prod.mk.inj (Except.ok.inj h)
      obtain ⟨hlen, hall, rfl⟩ := decodeCodePoints_ok hd
      have hlt : cps.length < 4294967296 := hlen ▸ (le32 n0 n1 n2 n3).isLt
      constructor
      · simp only [Instr.wf, isS32_toInt, hall, hlt, decide_true, Bool.and_self]
      · simp only [encode, BitVec.ofInt_toInt, hlen, BitVec.ofNat_toNat, BitVec.setWidth_eq, le32Bytes_le32]
        rfl
    · cases h
  · cases h

/-- A READ_FB that was read is well-formed, and its encoding is what was taken (R55). -/
theorem decodeRead_ok {bs rest : List Byte} {i : Instr} (h : decodeRead bs = .ok (i, rest)) :
    i.wf = true ∧ 0x04#8 :: bs = encode i ++ rest := by
  unfold decodeRead at h
  split at h
  · next i0 i1 rest' =>
    unfold readOperation at h
    split_ifs at h with hle
    obtain ⟨rfl, rfl⟩ := Prod.mk.inj (Except.ok.inj h)
    refine ⟨decide_eq_true hle, ?_⟩
    simp only [encode, BitVec.ofNat_toNat, BitVec.setWidth_eq, le16Bytes_le16]
    rfl
  · cases h

/-- Whatever HOST's port accepts is the encoding of the well-formed operation it reads (R51 to R56). -/
theorem decodeHost_ok {bs rest : List Byte} {i : Instr} (h : decodeHost bs = .ok (i, rest)) :
    i.port = .host ∧ i.wf = true ∧ bs = encode i ++ rest := by
  refine ⟨Machine.decode_host_port h, ?_⟩
  match bs, h with
  | op :: bs, h =>
    rw [decodeHost] at h
    split_ifs at h with h1 h2 h3 h4 h5 h6
    · obtain ⟨rfl, rfl⟩ := Prod.mk.inj (Except.ok.inj h)
      exact ⟨rfl, by rw [h1]; rfl⟩
    · rw [h2]; exact decodePixel_ok h
    · rw [h3]; exact decodeText_ok h
    · rw [h4]; exact decodeRead_ok h
    · obtain ⟨rfl, rfl⟩ := Prod.mk.inj (Except.ok.inj h)
      exact ⟨rfl, by rw [h5]; rfl⟩
    · obtain ⟨rfl, rfl⟩ := Prod.mk.inj (Except.ok.inj h)
      exact ⟨rfl, by rw [h6]; rfl⟩

/-- Settles O2: at each port, the decoder's branches that accept something accept an encoding. -/
theorem decodeAcceptsOnlyEncodings : Obligations.DecodeAcceptsOnlyEncodings := by
  unfold Obligations.DecodeAcceptsOnlyEncodings
  intro p bs rest i h
  cases p with
  | host => exact decodeHost_ok h
  | control => exact decodeControl_ok h
  | command => exact decodeCommand_ok h

/-! ## Encodings are read back -/

/-- SET_PIXEL is read back from its encoding (R53). -/
theorem decodeHost_encode_setPixel {x y : Int} (on : Bool) (hx : isS32 x = true) (hy : isS32 y = true) (rest : List Byte) :
    decodeHost (encode (.setPixel x y on) ++ rest) = .ok (.setPixel x y on, rest) := by
  simp only [encode, List.cons_append, List.append_assoc, List.nil_append]
  rw [decodeHost_pixel, decodePixel_fields, toInt_ofInt_of_isS32 hx, toInt_ofInt_of_isS32 hy]
  cases on <;> rfl

/-- DRAW_TEXT is read back from its encoding (R54). -/
theorem decodeHost_encode_drawText {x y : Int} {cps : List Nat} (hx : isS32 x = true) (hy : isS32 y = true)
    (hlen : cps.length < 4294967296) (hcps : cps.all isScalar = true) (rest : List Byte) :
    decodeHost (encode (.drawText x y cps) ++ rest) = .ok (.drawText x y cps, rest) := by
  simp only [encode, List.cons_append, List.append_assoc]
  rw [decodeHost_text, decodeText_fields, toInt_ofInt_of_isS32 hx, toInt_ofInt_of_isS32 hy, toNat_ofNat32 hlen, textOperation,
    if_neg (by rw [List.length_append, encodeCodePoints_length]; omega), decodeCodePoints_encode hcps]

/-- READ_FB is read back from its encoding (R55). -/
theorem decodeHost_encode_readFb {k : Nat} (hk : k ≤ 511) (rest : List Byte) :
    decodeHost (encode (.readFb k) ++ rest) = .ok (.readFb k, rest) := by
  simp only [encode, List.cons_append]
  rw [decodeHost_read, decodeRead_field (by omega), readOperation, if_pos hk]

/-- The instruction of a row of the command map is read back from its encoding (R61). -/
theorem decodeCommand_encode {row : CommandRow} (h : row ∈ commandRows) (rest : List Byte) :
    decodeCommand (encode row.instr ++ rest) = .ok (row.instr, rest) := by
  obtain ⟨-, -, henc⟩ := commandRows_encode row h
  rw [henc, List.cons_append, decodeCommand_row h, decodeRow_params]

/-- The command map has a row for every well-formed command (R61, R63). -/
theorem mem_commandRows_of_wf {i : Instr} (hp : i.port = .command) (hwf : i.wf = true) :
    ∃ row ∈ commandRows, row.instr = i := by
  cases i <;> simp only [Instr.port, reduceCtorEq] at hp
  case setColumnRange a b =>
    simp only [Instr.wf, Bool.and_eq_true, decide_eq_true_eq] at hwf
    obtain ⟨rfl, rfl⟩ := hwf
    decide
  case setPageRange a b =>
    simp only [Instr.wf, Bool.and_eq_true, decide_eq_true_eq] at hwf
    obtain ⟨rfl, rfl⟩ := hwf
    decide
  all_goals decide

/-- A well-formed host operation is read back from its encoding (R51 to R56). -/
theorem decodeHost_encode {i : Instr} (hp : i.port = .host) (hwf : i.wf = true) (rest : List Byte) :
    decodeHost (encode i ++ rest) = .ok (i, rest) := by
  cases i <;> simp only [Instr.port, reduceCtorEq] at hp
  case clear => exact decodeHost_clear rest
  case init => exact decodeHost_init rest
  case flush => exact decodeHost_flush rest
  case setPixel x y on =>
    obtain ⟨hx, hy⟩ := Bool.and_eq_true_iff.mp hwf
    exact decodeHost_encode_setPixel on hx hy rest
  case drawText x y cps =>
    simp only [Instr.wf, Bool.and_eq_true, decide_eq_true_eq] at hwf
    obtain ⟨⟨⟨hx, hy⟩, hlen⟩, hcps⟩ := hwf
    exact decodeHost_encode_drawText hx hy hlen hcps rest
  case readFb k => exact decodeHost_encode_readFb (of_decide_eq_true hwf) rest

/-- A control byte is read back from its encoding (R58). -/
theorem decodeControl_encode {i : Instr} (hp : i.port = .control) (rest : List Byte) :
    decodeControl (encode i ++ rest) = .ok (i, rest) := by
  cases i <;> simp only [Instr.port, reduceCtorEq] at hp <;> rfl

/-- Settles O1: a host operation field by field, a control byte by computation, a command through its row of the map. -/
theorem decodeReadsBackEncode : Obligations.DecodeReadsBackEncode := by
  unfold Obligations.DecodeReadsBackEncode
  intro i rest hwf
  cases hp : i.port with
  | host => exact decodeHost_encode hp hwf rest
  | control => exact decodeControl_encode hp rest
  | command =>
    obtain ⟨row, hrow, rfl⟩ := mem_commandRows_of_wf hp hwf
    exact decodeCommand_encode hrow rest

/-! ## What is refused -/

/-- A reserved host opcode is refused by name (R56). -/
theorem decodeHost_reserved {op : Byte} (h : op = 0x00#8 ∨ 7 ≤ op.toNat) (bs : List Byte) :
    decodeHost (op :: bs) = .error (.hostOpcode op) := by
  have hne {k : Byte} (hk : k.toNat ≠ 0 ∧ k.toNat < 7) : op ≠ k := by
    rintro rfl
    rcases h with rfl | h
    · exact hk.1 rfl
    · omega
  rw [decodeHost, if_neg (hne (by decide)), if_neg (hne (by decide)), if_neg (hne (by decide)), if_neg (hne (by decide)),
    if_neg (hne (by decide)), if_neg (hne (by decide))]

theorem decodePixel_short {bs : List Byte} (h : bs.length < 9) : decodePixel bs = .error (.shortOperation 0x02#8) := by
  unfold decodePixel
  split
  · simp only [List.length_cons] at h
    omega
  · rfl

theorem decodeText_short {bs : List Byte} (h : bs.length < 12) : decodeText bs = .error (.shortOperation 0x03#8) := by
  unfold decodeText
  split
  · simp only [List.length_cons] at h
    omega
  · rfl

theorem decodeRead_short {bs : List Byte} (h : bs.length < 2) : decodeRead bs = .error (.shortOperation 0x04#8) := by
  unfold decodeRead
  split
  · simp only [List.length_cons] at h
    omega
  · rfl

/-- An `on` byte other than 0 and 1 is refused by name (R53). -/
theorem pixelOperation_other (x y : Int) {b : Byte} (h : 2 ≤ b.toNat) (rest : List Byte) :
    pixelOperation x y b rest = .error (.pixelOn b) := by
  have h0 : b ≠ 0x00#8 := by rintro rfl; exact absurd h (by decide)
  have h1 : b ≠ 0x01#8 := by rintro rfl; exact absurd h (by decide)
  rw [pixelOperation, if_neg h0, if_neg h1]

/-- Settles O3: each refusal where its decoder finds it, the fields before it read. -/
theorem hostPortRefusesBadInput : Obligations.HostPortRefusesBadInput := by
  unfold Obligations.HostPortRefusesBadInput
  refine ⟨fun _ bs h => decodeHost_reserved h bs, fun _ h => decodePixel_short h, fun _ h => decodeText_short h, ?fewBytes,
    fun _ h => decodeRead_short h, ?onByte, ?index, ?codePoint⟩
  case fewBytes =>
    intro xy cps n hxy hn hlen
    obtain ⟨wx, wy, rfl⟩ := coordinates_of_length hxy
    rw [decode_host, decodeHost_text, List.append_assoc, decodeText_fields, toNat_ofNat32 hn, textOperation, if_pos hlen]
  case onByte =>
    intro xy rest b hxy hb
    obtain ⟨wx, wy, rfl⟩ := coordinates_of_length hxy
    rw [decode_host, decodeHost_pixel, List.append_assoc, decodePixel_fields, pixelOperation_other _ _ hb]
  case index =>
    intro i rest hi hlt
    rw [decode_host, decodeHost_read, decodeRead_field hlt, readOperation, if_neg (by omega)]
  case codePoint =>
    intro xy rest good bad v hxy hgood hbad hv hlen
    obtain ⟨wx, wy, rfl⟩ := coordinates_of_length hxy
    rw [decode_host, decodeHost_text, List.append_assoc, decodeText_fields, toNat_ofNat32 hlen, textOperation,
      if_neg (by rw [List.length_append, encodeCodePoints_length]; omega), decodeCodePoints_bad hgood hbad hv]

/-- A command byte that is in no row of the map is refused by name (R86). -/
theorem decodeCommand_other {b : Byte} (h : b ∉ commandRows.map (·.cmd)) (bs : List Byte) :
    decodeCommand (b :: bs) = .error (.commandByte b) := by
  have hnone : commandRows.find? (fun row => row.cmd == b) = none :=
    List.find?_eq_none.mpr fun row hrow hb => h (List.mem_map.mpr ⟨row, hrow, beq_iff_eq.mp hb⟩)
  rw [decodeCommand, hnone]

/-- The first parameter that is not the row's is refused by name, whatever follows (R63, R86). -/
theorem takeParams_append_ne (cmd : Byte) (good : List Byte) {q p : Byte} (qs bs : List Byte) (h : p ≠ q) :
    takeParams cmd (good ++ q :: qs) (good ++ p :: bs) = .error (.parameter cmd p) := by
  induction good with
  | nil => exact takeParams_ne cmd qs bs h
  | cons g good ih => rw [List.cons_append, List.cons_append, takeParams, if_pos rfl, ih]

/-- A command of the map with a parameter that is not its row's is refused by that parameter (R63, R86). -/
theorem decodeCommand_parameter {row : CommandRow} (hrow : row ∈ commandRows) {good qs : List Byte} {q p : Byte}
    (hparams : row.params = good ++ q :: qs) (h : p ≠ q) (bs : List Byte) :
    decodeCommand (row.cmd :: (good ++ p :: bs)) = .error (.parameter row.cmd p) := by
  rw [decodeCommand_row hrow, decodeRow, hparams, takeParams_append_ne _ _ _ _ h]

/-- The commands with a parameter, each with its first one (R61). -/
theorem commandRows_firstParameter :
    commandRows.filterMap (fun row => row.params.head?.map (row.cmd, ·)) =
      [(0xD5#8, 0x80#8), (0xA8#8, 0x1F#8), (0xD3#8, 0x00#8), (0x8D#8, 0x14#8), (0x20#8, 0x00#8), (0xDA#8, 0x02#8),
        (0x81#8, 0x8F#8), (0xD9#8, 0xF1#8), (0xDB#8, 0x40#8), (0x21#8, 0x00#8), (0x22#8, 0x00#8)] := rfl

/-- Settles O4: a control byte or a command byte that is none of the map's, and the first parameter that is not the row's. -/
theorem panelPortsRefuseBadInput : Obligations.PanelPortsRefuseBadInput := by
  unfold Obligations.PanelPortsRefuseBadInput
  refine ⟨fun _ bs h0 h40 => Machine.decodeControl_other bs h0 h40, fun _ bs h => decodeCommand_other h bs, ?first, ?columnEnd,
    ?pageEnd⟩
  case first =>
    intro c q p bs hcq hne
    rw [← commandRows_firstParameter, List.mem_filterMap] at hcq
    obtain ⟨row, hrow, hfirst⟩ := hcq
    obtain ⟨q', hhead, hpair⟩ := Option.map_eq_some_iff.mp hfirst
    obtain ⟨rfl, rfl⟩ := Prod.mk.inj hpair
    obtain ⟨qs, hparams⟩ := List.head?_eq_some_iff.mp hhead
    exact decodeCommand_parameter hrow (good := []) hparams hne bs
  case columnEnd =>
    intro p bs hne
    exact decodeCommand_parameter (row := ⟨0x21#8, [0x00#8, 0x7F#8], .setColumnRange 0x00#8 0x7F#8⟩) (by decide)
      (good := [0x00#8]) rfl hne bs
  case pageEnd =>
    intro p bs hne
    exact decodeCommand_parameter (row := ⟨0x22#8, [0x00#8, 0x03#8], .setPageRange 0x00#8 0x03#8⟩) (by decide)
      (good := [0x00#8]) rfl hne bs

/-! ## Words written out -/

/-- Settles O5: decoding a closed word is a computation, and each clause is one. -/
theorem writtenWordsDecode : Obligations.WrittenWordsDecode := by
  unfold Obligations.WrittenWordsDecode
  refine ⟨?clear, ?lastPixel, ?leftOfFrame, ?text, ?lastByte, ?init, ?flush, ?ctrlCommand, ?ctrlData, ?startLine, ?comPins, ?columns,
    ?tableClockDiv, ?tablePages⟩
  all_goals rfl

end Sys2Proof
end

section
/-! One step of the machine: HOST's next operation, PANEL's next control byte or command, or waiting (20_memory.md R44). -/

namespace Sys2Proof.Machine

/-! ## HOST's operations -/

/-- BLOCK takes the operation that HOST's bytes decode to and leaves the rest for the next (R44, R51). -/
theorem hostStep_of_decode {s : State} {i : Instr} {rest : List Byte} (h : decode .host s.hostIn = .ok (i, rest)) :
    hostStep s = exec i (s.setHostIn rest) := by
  unfold hostStep
  split
  · next hin => rw [hin] at h; cases h
  · next hin => rw [← hin, h]

/-- Bytes that are no operation are refused, for the decoder's reason (R56, R137). -/
theorem hostStep_of_reject {s : State} {r : Reject} (hin : s.hostIn ≠ []) (h : decode .host s.hostIn = .error r) :
    hostStep s = .refused (.undecodable r) := by
  unfold hostStep
  split
  · next hnil => exact absurd hnil hin
  · next hcons => rw [← hcons, h]

/-- Settles O7: with PANEL done and BLOCK Idle the step is HOST's, which is the meaning of what its bytes decode to. -/
theorem stepRunsHostOperation : Obligations.StepRunsHostOperation := by
  unfold Obligations.StepRunsHostOperation
  intro s i rest hrx hseq hdec
  rw [step_of_idle hrx hseq, hostStep_of_decode hdec]
  rfl

/-- Settles O9: the step is HOST's, and HOST has issued nothing. -/
theorem idleBlockWaits : Obligations.IdleBlockWaits := by
  unfold Obligations.IdleBlockWaits
  intro s hrx hseq hin
  rw [step_of_idle hrx hseq, hostStep, hin]

/-- Settles O10: with PANEL done and BLOCK not Idle the step is the sequencer's. -/
theorem stepGoesOnWithOperation : Obligations.StepGoesOnWithOperation := by
  unfold Obligations.StepGoesOnWithOperation
  exact fun _ => step_of_busy

/-- Settles O11: the step is HOST's, and its bytes are no operation. -/
theorem stepRefusesUndecodable : Obligations.StepRefusesUndecodable := by
  unfold Obligations.StepRefusesUndecodable
  intro s r hrx hseq hin hdec
  rw [step_of_idle hrx hseq, hostStep_of_reject hin hdec]

/-! ## PANEL's items -/

/-- In command mode PANEL reads a command (R84). -/
theorem panelStep_of_commandMode {s : State} {b : Byte} {bs : List Byte} (href : s.panel.refused = none)
    (hmode : s.panel.mode = some .command) (hrx : s.panel.rx = b :: bs) : panelStep s = panelCommand (b :: bs) s := by
  unfold panelStep
  rw [href, hrx, hmode]

/-- In data mode PANEL takes a data byte (R84). -/
theorem panelStep_of_dataMode {s : State} {b : Byte} {bs : List Byte} (href : s.panel.refused = none)
    (hmode : s.panel.mode = some .data) (hrx : s.panel.rx = b :: bs) : panelStep s = panelData b (s.setRx bs) := by
  unfold panelStep
  rw [href, hrx, hmode]

/-- A control byte that decodes has its instruction's meaning (R85). -/
theorem panelControl_of_decode {bs rest : List Byte} {i : Instr} (s : State) (h : decode .control bs = .ok (i, rest)) :
    panelControl bs s = exec i (s.setRx rest) := by
  obtain ⟨hport, -⟩ := decodeControl_ok h
  rw [panelControl, h]
  exact panelExec_eq_exec _ (by rw [hport]; decide)

/-- A command that decodes has its instruction's meaning (R62, R84). -/
theorem panelCommand_of_decode {bs rest : List Byte} {i : Instr} (s : State) (h : decode .command bs = .ok (i, rest)) :
    panelCommand bs s = exec i (s.setRx rest) := by
  obtain ⟨hport, -⟩ := decodeCommand_ok h
  rw [panelCommand, h]
  exact panelExec_eq_exec _ (by rw [hport]; decide)

/-- Bytes that decode to something are not none. -/
theorem ne_nil_of_decode {p : Port} {bs rest : List Byte} {i : Instr} (h : decode p bs = .ok (i, rest)) : bs ≠ [] := by
  rintro rfl
  cases p <;> cases h

/-- Settles O8: PANEL, not refused and with bytes to act on, takes the control byte or the command they begin with. -/
theorem stepRunsPanelInstruction : Obligations.StepRunsPanelInstruction := by
  unfold Obligations.StepRunsPanelInstruction
  rintro s i rest href (⟨hmode, hdec⟩ | ⟨hmode, hdec⟩) <;>
    obtain ⟨b, bs, hrx⟩ := List.exists_cons_of_ne_nil (ne_nil_of_decode hdec)
  · rw [step_of_rx hrx, panelStep_of_noMode href hmode hrx, ← hrx, panelControl_of_decode s hdec]
    rfl
  · rw [step_of_rx hrx, panelStep_of_commandMode href hmode hrx, ← hrx, panelCommand_of_decode s hdec]
    rfl

end Sys2Proof.Machine
end

section
/-! The rasterizer: CLEAR, READ_FB, the glyph lookup, and DRAW_TEXT's refusals and its TRANSPARENT mode (43_raster.md R107 to R114). -/

namespace Sys2Proof.Machine

/-! ## CLEAR, READ_FB and SET_PIXEL -/

/-- Settles O12: the frame CLEAR writes is `clearedFb`. -/
theorem clearZeroesFramebuffer : Obligations.ClearZeroesFramebuffer := by
  unfold Obligations.ClearZeroesFramebuffer
  exact fun s => ⟨clearedFb, exec_clear s, fun _ => fbRead_clearedFb⟩

/-- READ_FB of an index in the frame answers with its byte (R112). -/
theorem exec_readFb {i : Nat} (s : State) (h : i ≤ 511) : exec (.readFb i) s = .next (s.ret (.okByte (fbRead s.fb i))) :=
  if_pos h

/-- Settles O14: READ_FB of an index in the frame adds its result and does nothing else. -/
theorem readFbReturnsByte : Obligations.ReadFbReturnsByte := by
  unfold Obligations.ReadFbReturnsByte
  exact fun s _ => exec_readFb s

/-- Settles O15: past the frame READ_FB's test fails. -/
theorem readFbRefusesIndex : Obligations.ReadFbRefusesIndex := by
  unfold Obligations.ReadFbRefusesIndex
  exact fun _ _ h => if_neg (Nat.not_le_of_lt h)

/-- Setting a bit is an OR with that bit (R107). -/
theorem withBit_true (v : Byte) (b : Nat) : withBit v b true = v ||| (1#8 <<< b) := by
  unfold withBit
  ext j hj
  simp only [if_true, BitVec.getElem_or, BitVec.getElem_and, BitVec.getElem_not]
  cases v[j] <;> cases (1#8 <<< b)[j] <;> rfl

/-- Settles O16: READ_FB reads the byte that SET_PIXEL wrote, which is the old one with the pixel's bit set. -/
theorem setPixelThenReadFb : Obligations.SetPixelThenReadFb := by
  unfold Obligations.SetPixelThenReadFb
  intro s x y hx hy
  have hin : inBounds (x : Int) y = true := inBounds_iff.mpr (by omega)
  have hset : exec (.setPixel x y true) s = .next ((s.setFb (putPixel s.fb x y true)).ret .ok) := rfl
  have hread := exec_readFb ((s.setFb (putPixel s.fb x y true)).ret .ok) (i := x + y / 8 * 128) (by omega)
  have hbyte := fbRead_putPixel_self s.fb true hin
  rw [byteIndex_natCast, bitIndex_natCast, withBit_true] at hbyte
  have hrun := runOps_cons_of_next (is := [.readFb (x + y / 8 * 128)]) hset
  rw [runOps_cons_of_next hread, runOps] at hrun
  exact ⟨_, _, hrun, by simp, hbyte⟩

/-! ## The glyph lookup -/

/-- Settles O21: the glyph's row is inside a legal font table; a code point outside 0x20 to 0x7E has no glyph. -/
theorem glyphBitsComeFromFont : Obligations.GlyphBitsComeFromFont := by
  unfold Obligations.GlyphBitsComeFromFont
  intro p cp c r hwf _ hr
  obtain ⟨hlen, -⟩ := params_wf_iff.mp hwf
  refine ⟨fun hlo hhi => ⟨by omega, ?_⟩, fun hout => ?_⟩
  · rw [glyphPixel, if_pos (hasGlyph_iff.mpr ⟨hlo, hhi⟩), fontRow, Config.cpFirst, List.getElem?_eq_getElem (by omega),
      Option.getD_some]
  · rw [glyphPixel, if_neg (by rw [hasGlyph_iff]; omega)]

/-! ## Refusals of DRAW_TEXT -/

/-- DRAW_TEXT of a text with a bad value is refused by that value (R137). -/
theorem exec_drawText_bad {x y : Int} {cps : List Nat} {v : Nat} (s : State) (h : badCodePoint cps = some v) :
    exec (.drawText x y cps) s = .refused (.codePoint v) := by
  rw [exec, execDrawText, h]

/-- The bad value reported is the first (R137). -/
theorem badCodePoint_append {good : List Nat} {v : Nat} (rest : List Nat) (hgood : good.all isScalar = true)
    (hv : isScalar v = false) : badCodePoint (good ++ v :: rest) = some v := by
  rw [badCodePoint, List.find?_append, show good.find? (fun u => !isScalar u) = none from badCodePoint_eq_none.mpr hgood,
    Option.none_or, List.find?_cons_of_pos (by rw [hv]; rfl)]

/-- A text that is not all scalar values has a bad value (R54). -/
theorem exists_badCodePoint {cps : List Nat} (h : cps.all isScalar = false) : ∃ v, badCodePoint cps = some v :=
  Option.ne_none_iff_exists'.mp fun hnone => by
    rw [badCodePoint_eq_none, h] at hnone
    cases hnone

/-- An operation that is refused stops the ones after it (R137). -/
theorem runOps_cons_of_refused {i : Instr} {is : List Instr} {s : State} {r : Refusal} (h : exec i s = .refused r) :
    runOps (i :: is) s = .refused r := by
  rw [runOps, h]

/-- SHOW with a bad value in its first line is refused with that line's DRAW_TEXT (R117, R137). -/
theorem facadeShow_badFirst {a : List Nat} {v : Nat} (b : List Nat) (s : State) (ha : badCodePoint a = some v) :
    facadeShow a b s = .refused (.codePoint v) := by
  rw [facadeShow, showOps, runOps_cons_of_next (exec_clear s), runOps_cons_of_refused (exec_drawText_bad _ ha)]

/-- SHOW with a bad value in its second line alone is refused with that line's DRAW_TEXT (R117, R137). -/
theorem facadeShow_badSecond {a b : List Nat} {v : Nat} (s : State) (ha : a.all isScalar = true) (hb : badCodePoint b = some v) :
    facadeShow a b s = .refused (.codePoint v) := by
  rw [facadeShow, showOps, runOps_cons_of_next (exec_clear s), runOps_cons_of_next (exec_drawText_scalar _ ha),
    runOps_cons_of_refused (exec_drawText_bad _ hb)]

/-- Settles O56: DRAW_TEXT names the first bad value; SHOW stops with the first of its lines that has one. -/
theorem drawTextRefusesNonScalar : Obligations.DrawTextRefusesNonScalar := by
  unfold Obligations.DrawTextRefusesNonScalar
  refine ⟨fun s x y good rest v hgood hv => exec_drawText_bad s (badCodePoint_append rest hgood hv), fun s a b h => ?_⟩
  rw [List.all_append] at h
  by_cases ha : a.all isScalar = true
  · rw [ha, Bool.true_and] at h
    obtain ⟨v, hbad⟩ := exists_badCodePoint h
    obtain ⟨hmem, hv⟩ := badCodePoint_eq_some hbad
    exact ⟨v, facadeShow_badSecond s ha hbad, List.mem_append_right a hmem, hv⟩
  · obtain ⟨v, hbad⟩ := exists_badCodePoint (Bool.eq_false_iff.mpr ha)
    obtain ⟨hmem, hv⟩ := badCodePoint_eq_some hbad
    exact ⟨v, facadeShow_badFirst b s hbad, List.mem_append_left b hmem, hv⟩

/-! ## TRANSPARENT mode: unknown code points -/

/-- A code point without a glyph has no on pixel (R108). -/
theorem glyphPixel_of_unknown (p : Config.Params) {cp : Nat} (h : cp < 0x20 ∨ 0x7E < cp) (c r : Nat) : glyphPixel p cp c r = false := by
  rw [glyphPixel, if_neg (by rw [hasGlyph_iff]; omega)]

/-- In TRANSPARENT mode an off pixel of a glyph leaves the frame (R109). -/
theorem blitPixel_transparent_off {p : Config.Params} {cp c r : Nat} (hmode : p.blitMode = .transparent)
    (hoff : glyphPixel p cp c r = false) (x0 y : Int) (m : Memory) : blitPixel p x0 y cp m r c = m := by
  rw [blitPixel, hoff, if_neg Bool.false_ne_true, hmode]

/-- In TRANSPARENT mode an unknown code point is a blank cell (R108, R109). -/
theorem blitGlyph_transparent_unknown {p : Config.Params} {cp : Nat} (hmode : p.blitMode = .transparent)
    (h : cp < 0x20 ∨ 0x7E < cp) (m : Memory) (x0 y : Int) : blitGlyph p m x0 y cp = m :=
  have hrow (m : Memory) (r : Nat) : blitRow p x0 y cp m r = m :=
    foldl_range_away (fun m c => blitPixel p x0 y cp m r c) id
      (fun m c => blitPixel_transparent_off hmode (glyphPixel_of_unknown p h c r) x0 y m) 8 m
  foldl_range_away (fun m r => blitRow p x0 y cp m r) id hrow 13 m

theorem drawText_transparent_unknown {p : Config.Params} {cps : List Nat} (hmode : p.blitMode = .transparent)
    (h : ∀ cp ∈ cps, cp < 0x20 ∨ 0x7E < cp) (m : Memory) (x y : Int) : drawText p m x y cps = m := by
  induction cps generalizing x with
  | nil => rfl
  | cons cp cps ih =>
    rw [drawText, blitGlyph_transparent_unknown hmode (h cp List.mem_cons_self), ih fun q hq => h q (List.mem_cons_of_mem cp hq)]

/-- Settles O19: every cell of the text is blank, so its frame is the old one. -/
theorem unknownCodePointsAreBlank : Obligations.UnknownCodePointsAreBlank := by
  unfold Obligations.UnknownCodePointsAreBlank
  intro s x y cps hmode hcps
  rw [exec_drawText_scalar s (List.all_eq_true.mpr fun cp hcp => (hcps cp hcp).1),
    drawText_transparent_unknown hmode fun cp hcp => (hcps cp hcp).2]
  rfl

/-! ## TRANSPARENT mode: no bit is cleared -/

/-- Every bit set in `m` is set in `n`. -/
def Memory.BitsKept (m n : Memory) : Prop := ∀ i, fbRead m i &&& fbRead n i = fbRead m i

theorem Memory.BitsKept.refl (m : Memory) : m.BitsKept m := fun _ => BitVec.and_self

theorem Memory.BitsKept.trans {m n o : Memory} (h1 : m.BitsKept n) (h2 : n.BitsKept o) : m.BitsKept o := fun i => by
  rw [← h1 i, BitVec.and_assoc, h2 i]

/-- A fold of steps that each keep the set bits keeps them. -/
theorem Memory.BitsKept.foldl {step : Memory → Nat → Memory} (h : ∀ (m : Memory) k, m.BitsKept (step m k)) (l : List Nat) (m : Memory) :
    m.BitsKept (l.foldl step m) := by
  induction l generalizing m with
  | nil => exact .refl m
  | cons k l ih => exact (h m k).trans (ih (step m k))

/-- Setting a pixel keeps the set bits (R107). -/
theorem putPixel_true_bitsKept (m : Memory) (x y : Int) : m.BitsKept (putPixel m x y true) := fun i => by
  rw [fbRead_putPixel]
  split
  · rw [withBit_true]
    ext j hj
    simp only [BitVec.getElem_and, BitVec.getElem_or]
    exact inf_sup_self
  · exact BitVec.and_self

theorem blitPixel_bitsKept {p : Config.Params} (hmode : p.blitMode = .transparent) (x0 y : Int) (cp : Nat) (m : Memory) (r c : Nat) :
    m.BitsKept (blitPixel p x0 y cp m r c) := by
  by_cases hon : glyphPixel p cp c r = true
  · rw [blitPixel, if_pos hon]
    exact putPixel_true_bitsKept m _ _
  · rw [blitPixel_transparent_off hmode (Bool.eq_false_iff.mpr hon)]
    exact .refl m

theorem blitGlyph_bitsKept {p : Config.Params} (hmode : p.blitMode = .transparent) (m : Memory) (x0 y : Int) (cp : Nat) :
    m.BitsKept (blitGlyph p m x0 y cp) :=
  .foldl (fun m r => .foldl (fun m c => blitPixel_bitsKept hmode x0 y cp m r c) (List.range 8) m) (List.range 13) m

theorem drawText_bitsKept {p : Config.Params} (hmode : p.blitMode = .transparent) (m : Memory) (x y : Int) (cps : List Nat) :
    m.BitsKept (drawText p m x y cps) := by
  induction cps generalizing m x with
  | nil => exact .refl m
  | cons cp cps ih => exact (blitGlyph_bitsKept hmode m x y cp).trans (ih _ _)

/-- Settles O20: in TRANSPARENT mode every place of every cell sets its pixel or leaves it. -/
theorem transparentTextOnlySetsBits : Obligations.TransparentTextOnlySetsBits := by
  unfold Obligations.TransparentTextOnlySetsBits
  intro s t x y cps hmode h
  obtain ⟨-, rfl⟩ := execDrawText_next h
  exact drawText_bitsKept hmode s.fb x y cps

end Sys2Proof.Machine
end

section
/-! The driver: how the data transactions cut the frame, what a FLUSH sends whatever TRANSPORT answers, and the sequencer's
transactions one after the other (10_state.md R21, 41_ssd1306_driver.md R76 to R81). -/

namespace Sys2Proof.Machine

/-! ## Chunks -/

/-- Byte `j` of a slice (R76). -/
theorem fbSlice_getElem? (m : Memory) {lo hi j : Nat} (h : j < (fbSlice m lo hi).length) :
    (fbSlice m lo hi)[j]? = some (fbRead m (lo + j)) := by
  rw [fbSlice_length] at h
  rw [fbSlice, List.getElem?_map, List.getElem?_range h, Option.map_some]

/-- Every chunk but the last is full (R76). -/
theorem chunkBytes_full {p : Config.Params} (h : p.wf = true) (m : Memory) {k : Nat} (hk : k + 1 < chunkCount p) :
    (chunkBytes p m k).length = p.dataChunk := by
  have hlt := (chunk_start_lt h).mp hk
  rw [Nat.succ_mul] at hlt
  rw [chunkBytes, fbSlice_length]
  omega

/-- The payloads of all the data transactions join to the frame (R76). -/
theorem chunks_payloads {p : Config.Params} (h : p.wf = true) (m : Memory) :
    ((List.range (chunkCount p)).map fun k => (dataBytes p m k).tail).flatten = (List.range 512).map (fbRead m) := by
  change ((List.range (chunkCount p)).map (chunkBytes p m)).flatten = _
  rw [chunks_cover, Nat.min_eq_left (frame_le_chunks h)]
  simp [fbSlice]

/-- The last chunk begins inside the frame, so the chunks reach less than one chunk past it (R76). -/
theorem chunks_lt_frame_add {p : Config.Params} (h : p.wf = true) : chunkCount p * p.dataChunk < 512 + p.dataChunk := by
  obtain ⟨n, hn⟩ := Nat.exists_eq_succ_of_ne_zero (chunkCount_pos h).ne'
  have hlast := (chunk_start_lt h (k := n)).mp (by omega)
  rw [hn, Nat.succ_mul]
  omega

/-- Settles O30: a chunk is the slice of the frame where it begins, full unless it is the last, and the slices join. -/
theorem chunksCutFrameInOrder : Obligations.ChunksCutFrameInOrder := by
  unfold Obligations.ChunksCutFrameInOrder
  intro p m hwf
  refine ⟨fun k hk => ?_, chunks_payloads hwf m, frame_le_chunks hwf, chunks_lt_frame_add hwf⟩
  obtain ⟨hpos, hle⟩ := chunkBytes_length hwf m hk
  exact ⟨chunkBytes p m k, rfl, hpos, hle, chunkBytes_full hwf m, fun _ => fbSlice_getElem? m⟩

/-! ## A FLUSH whose replies are all `Ok` -/

/-- The data transactions go to the slave address, are answered `Ok`, and carry at most one chunk (R66, R75, R76). -/
theorem flushDataTxs_mem {s : State} (h : s.params.wf = true) {e : Tx} (he : e ∈ flushDataTxs s) :
    e.addr = s.slaveAddr ∧ e.answer = .ok ∧ e.bytes.head? = some 0x40#8 ∧ e.bytes.length ≤ s.params.dataChunk + 1 := by
  obtain ⟨k, hk, rfl⟩ := List.mem_map.mp he
  obtain ⟨-, hle⟩ := chunkBytes_length h s.fb (List.mem_range.mp hk)
  exact ⟨rfl, rfl, rfl, Nat.succ_le_succ hle⟩

/-- Settles O27: with every reply `Ok`, FLUSH sends its command block and its data transactions, and returns `Ok`. -/
theorem flushSendsWholeFrame : Obligations.FlushSendsWholeFrame := by
  unfold Obligations.FlushSendsWholeFrame
  intro s hl hwf hok
  obtain ⟨hfb, hlatch, haddr, hparams, hhost, hseq⟩ := flushOp_frame s
  obtain ⟨htlog, hres⟩ := flushOp_ok s hl hok
  exact ⟨flushOp s, flushDataTxs s, exec_flush s, htlog, flushDataTxs_length s, fun _ => flushDataTxs_mem hwf,
    flushDataTxs_payloads hwf, hres, hseq, hfb, hlatch.trans hl, haddr, hparams, hhost⟩

/-! ## Any FLUSH -/

/-- A transaction of a FLUSH of the frame `s` holds: to the slave address, the command block or a chunk (R66, R80). -/
def State.FlushTx (s : State) (e : Tx) : Prop :=
  e.addr = s.slaveAddr ∧ (e.bytes = flushBytes ∨ ∃ k, k < chunkCount s.params ∧ e.bytes = dataBytes s.params s.fb k)

/-- The data loop sends chunks, and returns one result, whatever TRANSPORT answers (R80, R128). -/
theorem flushChunks_tlog_results {ks : List Nat} {s : State} (hks : ∀ k ∈ ks, k < chunkCount s.params) :
    ∃ (sent : List Tx) (r : OpResult), (flushChunks ks s).tlog = s.tlog ++ sent ∧ (flushChunks ks s).results = s.results ++ [r] ∧
      ∀ e ∈ sent, s.FlushTx e := by
  induction ks generalizing s with
  | nil => exact ⟨[], .ok, (List.append_nil s.tlog).symm, rfl, fun _ he => absurd he List.not_mem_nil⟩
  | cons k ks ih =>
    have hfirst (a : Answer) : s.FlushTx ⟨s.slaveAddr, dataBytes s.params s.fb k, a⟩ :=
      ⟨rfl, .inr ⟨k, hks k List.mem_cons_self, rfl⟩⟩
    cases hans : txAnswer s with
    | ok =>
      obtain ⟨sent, r, htlog, hres, hsent⟩ := ih (s := txWrite (s.setSeq (.flushData k)) (dataBytes s.params s.fb k))
        (by simpa using fun j hj => hks j (List.mem_cons_of_mem k hj))
      refine ⟨⟨s.slaveAddr, dataBytes s.params s.fb k, .ok⟩ :: sent, r, ?_, ?_, List.forall_mem_cons.mpr ⟨hfirst _, ?_⟩⟩
      · rw [flushChunks, hans, htlog]
        simp [hans]
      · rw [flushChunks, hans, hres]
        simp
      · simpa [State.FlushTx] using hsent
    | err x =>
      refine ⟨[⟨s.slaveAddr, dataBytes s.params s.fb k, .err x⟩], .err (.io x), ?_, ?_, List.forall_mem_singleton.mpr (hfirst _)⟩ <;>
        simp [flushChunks, hans]

/-- FLUSH sends its command block and chunks, or nothing, and returns one result, whatever TRANSPORT answers (R80, R128). -/
theorem flushOp_tlog_results (s : State) :
    ∃ (sent : List Tx) (r : OpResult), (flushOp s).tlog = s.tlog ++ sent ∧ (flushOp s).results = s.results ++ [r] ∧
      ∀ e ∈ sent, s.FlushTx e := by
  cases hl : s.latch with
  | false =>
    rw [flushOp_of_latch_false hl]
    exact ⟨[], .err .uninitialized, (List.append_nil s.tlog).symm, rfl, fun _ he => absurd he List.not_mem_nil⟩
  | true =>
    rw [flushOp, State.ready, if_pos hl, flushFrame]
    cases hans : txAnswer s with
    | ok =>
      obtain ⟨sent, r, htlog, hres, hsent⟩ := flushChunks_tlog_results (ks := List.range (chunkCount s.params))
        (s := txWrite (s.setSeq .flushCmd) flushBytes) (by simp)
      refine ⟨⟨s.slaveAddr, flushBytes, .ok⟩ :: sent, r, ?_, ?_, List.forall_mem_cons.mpr ⟨⟨rfl, .inl rfl⟩, ?_⟩⟩
      · simp [htlog, hans]
      · simp [hres]
      · simpa [State.FlushTx] using hsent
    | err x =>
      refine ⟨[⟨s.slaveAddr, flushBytes, .err x⟩], .err (.io x), ?_, ?_, List.forall_mem_singleton.mpr ⟨rfl, .inl rfl⟩⟩ <;>
        simp [hans]

/-- Settles O31: the frame of FLUSH, and what it sends whatever the answers. -/
theorem flushAlwaysCompletes : Obligations.FlushAlwaysCompletes := by
  unfold Obligations.FlushAlwaysCompletes
  intro s
  obtain ⟨hfb, hlatch, haddr, hparams, hhost, hseq⟩ := flushOp_frame s
  obtain ⟨sent, r, htlog, hres, hsent⟩ := flushOp_tlog_results s
  exact ⟨flushOp s, r, sent, exec_flush s, hres, hseq, htlog, fun e he => (hsent e he).1, hfb, hlatch, haddr, hparams, hhost⟩

/-! ## What transactions keep of PANEL, operations keep -/

section Kept
variable {P : Panel → Prop} (hP : ∀ (s : State) (bytes : List Byte), P s.panel → P (txWrite s bytes).panel)
include hP

theorem initOp_panel_of_txWrite {s : State} (h : P s.panel) : P (initOp s).panel := by
  rw [initOp_panel]
  exact hP _ _ h

theorem flushChunks_panel_of_txWrite (ks : List Nat) {s : State} (h : P s.panel) : P (flushChunks ks s).panel := by
  induction ks generalizing s with
  | nil => exact h
  | cons k ks ih =>
    have hfirst := hP (s.setSeq (.flushData k)) (dataBytes s.params s.fb k) h
    rw [flushChunks]
    cases txAnswer s with
    | ok => exact ih hfirst
    | err e => exact hfirst

theorem flushOp_panel_of_txWrite {s : State} (h : P s.panel) : P (flushOp s).panel := by
  have hfirst := hP (s.setSeq .flushCmd) flushBytes h
  rw [flushOp]
  split
  · rw [flushFrame]
    cases txAnswer s with
    | ok => exact flushChunks_panel_of_txWrite hP _ hfirst
    | err e => exact hfirst
  · exact h

end Kept

/-! ## The sequencer -/

/-- An Idle BLOCK has no transaction to make (R21). -/
theorem seqRun_of_idle {s : State} (h : s.seq = .idle) (n : Nat) : seqRun n s = s := by
  cases n with
  | zero => rfl
  | succ n => rw [seqRun, if_pos h]

/-- Elsewhere the sequencer makes a transaction and goes on (R21). -/
theorem seqRun_of_busy {s : State} (h : s.seq ≠ .idle) (n : Nat) : seqRun (n + 1) s = seqRun n (seqStep s) := by
  rw [seqRun, if_neg h]

/-- A transaction of FLUSH's, made by the sequencer: after `Ok` it moves on to chunk `k`, after an error it stops (R21, R80). -/
def flushTxStep (k : Nat) (bytes : List Byte) (s : State) : State :=
  match txAnswer s with
  | .ok => flushNext k (txWrite s bytes)
  | .err e => (txWrite s bytes).raise (.io e)

/-- The sequencer's one transaction of INIT is INIT (R21, R79). -/
theorem seqStep_of_initCmd {s : State} (h : s.seq = .initCmd) : seqStep s = initOp s := by
  have hset : s.setSeq .initCmd = s := by rw [← h]; rfl
  rw [seqStep, h, initOp, hset]

theorem seqStep_of_flushCmd {s : State} (h : s.seq = .flushCmd) : seqStep s = flushTxStep 0 flushBytes s := by
  rw [seqStep, h]
  rfl

theorem seqStep_of_flushData {s : State} {k : Nat} (h : s.seq = .flushData k) :
    seqStep s = flushTxStep (k + 1) (dataBytes s.params s.fb k) s := by
  rw [seqStep, h]
  rfl

/-- From chunk `k` on, with `m` chunks to come, enough of the sequencer's transactions are the rest of the data loop (R21, R80). -/
theorem seqRun_flushNext {s : State} {k m n : Nat} (hm : chunkCount s.params = k + m) (hn : m ≤ n) :
    seqRun n (flushNext k s) = flushChunks (List.range' k m) s := by
  induction m generalizing s k n with
  | zero =>
    rw [flushNext, if_neg (by omega), seqRun_of_idle rfl]
    rfl
  | succ m ih =>
    obtain ⟨n, rfl⟩ := Nat.exists_eq_add_of_lt hn
    rw [flushNext, if_pos (by omega), seqRun_of_busy (by simp), seqStep_of_flushData (State.setSeq_seq s _), List.range'_succ,
      flushChunks, flushTxStep, txAnswer_setSeq]
    cases txAnswer s with
    | ok => exact ih (by rw [txWrite_params, State.setSeq_params]; omega) (by omega)
    | err e => exact seqRun_of_idle rfl _

/-- Settles O33: INIT is one transaction; FLUSH is its command transaction and then the chunks, each as the data loop makes it. -/
theorem sequencerRefinesOperations : Obligations.SequencerRefinesOperations := by
  unfold Obligations.SequencerRefinesOperations
  refine ⟨fun s n hn => ?init, fun s n hl hn => ?flush⟩
  case init =>
    obtain ⟨n, rfl⟩ := Nat.exists_eq_add_of_le' hn
    obtain ⟨-, -, -, -, hidle, -⟩ := initOp_frame s
    change exec .init s = .next (seqRun (n + 1) (s.setSeq .initCmd))
    rw [seqRun_of_busy (by simp), seqStep_of_initCmd (State.setSeq_seq s _), show initOp (s.setSeq .initCmd) = initOp s from rfl,
      seqRun_of_idle hidle, exec_init]
  case flush =>
    obtain ⟨n, rfl⟩ := Nat.exists_eq_add_of_lt hn
    change exec .flush s = .next (seqRun _ (s.setSeq .flushCmd))
    rw [seqRun_of_busy (by simp), seqStep_of_flushCmd (State.setSeq_seq s _), exec_flush, flushOp, State.ready, if_pos hl, flushFrame,
      flushTxStep, txAnswer_setSeq]
    cases txAnswer s with
    | ok =>
      rw [List.range_eq_range', ← seqRun_flushNext (n := chunkCount s.params + n) (by simp) (by omega)]
    | err e => rw [seqRun_of_idle rfl]

end Sys2Proof.Machine
end

section
/-! SHOW before INIT, what SHOW sends, and the places it leaves blank (44_facade.md R117, R118, R120). -/

namespace Sys2Proof.Machine

/-- BLOCK when SHOW's lines are drawn and its FLUSH is to come (R117). -/
def State.withShow (s : State) (a b : List Nat) : State :=
  { s with fb := showFrame s.params a b, results := s.results ++ [.ok, .ok, .ok] }

/-- SHOW answers a next state only for lines of scalar values, and then it has flushed the composed frame (R117, R137). -/
theorem facadeShow_next {s t : State} {a b : List Nat} {r : Option OpResult} (h : facadeShow a b s = .next (t, r)) :
    t = flushOp (s.withShow a b) := by
  by_cases ha : a.all isScalar = true
  · by_cases hb : b.all isScalar = true
    · rw [facadeShow_scalar s ha hb, Host.Outcome.next.injEq, Prod.mk.injEq] at h
      exact h.1.symm
    · obtain ⟨v, hbad⟩ := exists_badCodePoint (Bool.eq_false_iff.mpr hb)
      rw [facadeShow_badSecond s ha hbad] at h
      cases h
  · obtain ⟨v, hbad⟩ := exists_badCodePoint (Bool.eq_false_iff.mpr ha)
    rw [facadeShow_badFirst b s hbad] at h
    cases h

/-- Settles O52: with the latch at 0 SHOW's FLUSH is its error and nothing else. -/
theorem showBeforeInit : Obligations.ShowBeforeInit := by
  unfold Obligations.ShowBeforeInit
  intro s a b ha hb hl
  have hshow := facadeShow_scalar s ha hb
  rw [flushOp_of_latch_false (by exact hl)] at hshow
  rw [State.raise_results, List.getLast?_concat] at hshow
  exact ⟨_, hshow, rfl, rfl⟩

/-- Settles O53: SHOW's transactions are its FLUSH's, and the frame of that FLUSH is the one SHOW ends with. -/
theorem showSendsFinishedFrame : Obligations.ShowSendsFinishedFrame := by
  unfold Obligations.ShowSendsFinishedFrame
  intro s t a b r h
  obtain rfl := facadeShow_next h
  obtain ⟨hfb, -, -, hparams, -⟩ := flushOp_frame (s.withShow a b)
  obtain ⟨sent, _, htlog, -, hsent⟩ := flushOp_tlog_results (s.withShow a b)
  rw [hfb, hparams]
  exact ⟨sent, htlog, fun e he => (hsent e he).2⟩

/-- Settles O54: the first line's cells are rows 3 to 15 of its columns, the second's rows 18 to 30; outside both a pixel is off. -/
theorem showLayout : Obligations.ShowLayout := by
  unfold Obligations.ShowLayout
  intro s t a b r h px py hp
  have hblank (hout1 : ¬ (0 ≤ px ∧ px < 0 + 8 * a.length ∧ 15 - 12 ≤ py ∧ py ≤ 15))
      (hout2 : ¬ (0 ≤ px ∧ px < 0 + 8 * b.length ∧ 30 - 12 ≤ py ∧ py ≤ 30)) : pixel t.fb px py = false := by
    rw [facadeShow_next h, flushOp_fb, State.withShow, pixel_showFrame _ a b hp, textPixel_outside hout2, textPixel_outside hout1]
  refine ⟨fun hrow => hblank ?_ ?_, fun hlo hhi hright => hblank ?_ ?_, fun hlo hhi hright => hblank ?_ ?_⟩ <;> omega

end Sys2Proof.Machine
end

section
/-! The whole machine: what a step sends and sets, what it writes in `FB`, the invariant it keeps, and the results it returns
(10_state.md R16 to R21, 30_encoding.md R58, 40_transport.md R66, 60_exceptions.md R122 to R129). -/

namespace Sys2Proof.Machine

/-! ## What a step sends -/

/-- What one step can add to `TLOG`: INIT's transaction, some transactions of a FLUSH (perhaps none), or the one chunk the sequencer
stands at (R66, R79, R80). -/
inductive State.Adds (s : State) : List Tx → Prop where
  | init (a : Answer) : s.Adds [⟨s.slaveAddr, initBytes, a⟩]
  | flush {sent : List Tx} (h : ∀ e ∈ sent, s.FlushTx e) : s.Adds sent
  | chunk {k : Nat} (h : s.seq = .flushData k) (a : Answer) : s.Adds [⟨s.slaveAddr, dataBytes s.params s.fb k, a⟩]

/-- From `s` to `t` BLOCK has sent `sent`: the address and the configuration are as they were, and the latch is set by an INIT answered
`Ok` among them, and by nothing else (R13, R17, R18, R22). -/
structure State.Sends (s t : State) (sent : List Tx) : Prop where
  adds : s.Adds sent
  tlog : t.tlog = s.tlog ++ sent
  slaveAddr : t.slaveAddr = s.slaveAddr
  params : t.params = s.params
  latch : t.latch = (s.latch || sent.any Tx.initOk)

/-- A data transaction is not INIT's: its control byte is another (R75, R79). -/
theorem initOk_dataBytes (addr : SlaveAddr) (p : Config.Params) (m : Memory) (k : Nat) (a : Answer) :
    Tx.initOk ⟨addr, dataBytes p m k, a⟩ = false := by
  have hne : dataBytes p m k ≠ initBytes := fun h => absurd (List.cons.inj h).1 (by decide)
  rw [Tx.initOk, decide_eq_false hne, Bool.false_and]

/-- No transaction of a FLUSH is INIT's: the command block is another payload (R77, R78). -/
theorem State.FlushTx.initOk {s : State} {e : Tx} (h : s.FlushTx e) : e.initOk = false := by
  obtain ⟨addr, bytes, a⟩ := e
  obtain ⟨-, rfl | ⟨k, -, rfl⟩⟩ := h
  · rfl
  · exact initOk_dataBytes _ _ _ _ _

theorem any_initOk_of_flush {s : State} {sent : List Tx} (h : ∀ e ∈ sent, s.FlushTx e) : sent.any Tx.initOk = false :=
  List.any_eq_false.mpr fun e he => by rw [(h e he).initOk]; exact Bool.false_ne_true

/-- A state change that sends nothing. -/
theorem State.Sends.nothing {s t : State} (htlog : t.tlog = s.tlog) (haddr : t.slaveAddr = s.slaveAddr) (hparams : t.params = s.params)
    (hlatch : t.latch = s.latch) : s.Sends t [] :=
  ⟨.flush fun _ he => absurd he List.not_mem_nil, by rw [htlog, List.append_nil], haddr, hparams, by rw [hlatch]; simp⟩

/-- INIT sends its transaction (R79). -/
theorem initOp_sends (s : State) : s.Sends (initOp s) [⟨s.slaveAddr, initBytes, txAnswer s⟩] := by
  obtain ⟨-, haddr, hparams, -, -, htlog, hlatch⟩ := initOp_frame s
  exact ⟨.init _, htlog, haddr, hparams, by rw [hlatch]; simp [Tx.initOk]⟩

/-- FLUSH sends transactions of its frame (R80). -/
theorem flushOp_sends (s : State) : ∃ sent, s.Sends (flushOp s) sent := by
  obtain ⟨-, hlatch, haddr, hparams, -⟩ := flushOp_frame s
  obtain ⟨sent, -, htlog, -, hsent⟩ := flushOp_tlog_results s
  exact ⟨sent, .flush hsent, htlog, haddr, hparams, by rw [hlatch, any_initOk_of_flush hsent, Bool.or_false]⟩

/-- A host operation sends INIT's transaction, those of a FLUSH, or none. -/
theorem exec_host_sends {i : Instr} {s t : State} (hi : i.port = .host) (h : exec i s = .next t) : ∃ sent, s.Sends t sent := by
  obtain ⟨-, rfl⟩ | ⟨x, y, on, -, rfl⟩ | ⟨x, y, cps, -, -, rfl⟩ | ⟨k, -, -, rfl⟩ | ⟨-, rfl⟩ | ⟨-, rfl⟩ := exec_host_cases hi h
  case inr.inr.inr.inr.inl => exact ⟨_, initOp_sends s⟩
  case inr.inr.inr.inr.inr => exact flushOp_sends s
  all_goals exact ⟨[], .nothing rfl rfl rfl rfl⟩

/-! ## The sequencer's transaction -/

/-- BLOCK moving on to chunk `k`, or to FLUSH's end, leaves all but `SEQ` and the results (R80). -/
theorem flushNext_frame (k : Nat) (s : State) :
    (flushNext k s).fb = s.fb ∧ (flushNext k s).tlog = s.tlog ∧ (flushNext k s).slaveAddr = s.slaveAddr ∧
      (flushNext k s).params = s.params ∧ (flushNext k s).latch = s.latch := by
  unfold flushNext
  split <;> exact ⟨rfl, rfl, rfl, rfl, rfl⟩

@[simp] theorem flushNext_panel (k : Nat) (s : State) : (flushNext k s).panel = s.panel := by
  unfold flushNext
  split <;> rfl

/-- The sequencer's transaction of a FLUSH, outside `SEQ`, the results and PANEL: its entry in `TLOG` (R21, R80). -/
theorem flushTxStep_frame (k : Nat) (bytes : List Byte) (s : State) :
    (flushTxStep k bytes s).fb = s.fb ∧ (flushTxStep k bytes s).tlog = s.tlog ++ [⟨s.slaveAddr, bytes, txAnswer s⟩] ∧
      (flushTxStep k bytes s).slaveAddr = s.slaveAddr ∧ (flushTxStep k bytes s).params = s.params ∧
      (flushTxStep k bytes s).latch = s.latch := by
  unfold flushTxStep
  split
  · simpa using flushNext_frame k (txWrite s bytes)
  · simp

@[simp] theorem flushTxStep_panel (k : Nat) (bytes : List Byte) (s : State) :
    (flushTxStep k bytes s).panel = (txWrite s bytes).panel := by
  unfold flushTxStep
  split <;> simp

/-- After it BLOCK is Idle or at chunk `k`, which lies in the frame (R21, R80). -/
theorem flushTxStep_seq (k : Nat) (bytes : List Byte) (s : State) :
    (flushTxStep k bytes s).seq = .idle ∨ (flushTxStep k bytes s).seq = .flushData k ∧ k < chunkCount s.params := by
  unfold flushTxStep
  split
  · unfold flushNext
    split
    · next hk => exact .inr ⟨rfl, by simpa using hk⟩
    · exact .inl rfl
  · exact .inl rfl

theorem flushTxStep_sends {k : Nat} {bytes : List Byte} {s : State} (hadds : s.Adds [⟨s.slaveAddr, bytes, txAnswer s⟩])
    (hinit : Tx.initOk ⟨s.slaveAddr, bytes, txAnswer s⟩ = false) :
    s.Sends (flushTxStep k bytes s) [⟨s.slaveAddr, bytes, txAnswer s⟩] := by
  obtain ⟨-, htlog, haddr, hparams, hlatch⟩ := flushTxStep_frame k bytes s
  exact ⟨hadds, htlog, haddr, hparams, by rw [hlatch, List.any_cons, hinit]; simp⟩

/-- The sequencer's transaction is INIT's or one of a FLUSH (R21). -/
theorem seqStep_sends (s : State) : ∃ sent, s.Sends (seqStep s) sent := by
  cases hs : s.seq with
  | idle => exact ⟨[], by rw [seqStep, hs]; exact .nothing rfl rfl rfl rfl⟩
  | initCmd => exact ⟨_, by rw [seqStep_of_initCmd hs]; exact initOp_sends s⟩
  | flushCmd =>
    rw [seqStep_of_flushCmd hs]
    exact ⟨_, flushTxStep_sends (.flush (List.forall_mem_singleton.mpr ⟨rfl, .inl rfl⟩)) rfl⟩
  | flushData k =>
    rw [seqStep_of_flushData hs]
    exact ⟨_, flushTxStep_sends (.chunk hs _) (initOk_dataBytes _ _ _ _ _)⟩

/-! ## What a step sends, said once -/

/-- HOST's queue plays no part in what is sent. -/
theorem State.Sends.of_setHostIn {s t : State} {bs : List Byte} {sent : List Tx} (h : (s.setHostIn bs).Sends t sent) :
    s.Sends t sent := by
  obtain ⟨hadds, htlog, haddr, hparams, hlatch⟩ := h
  refine ⟨?_, htlog, haddr, hparams, hlatch⟩
  cases hadds with
  | init a => exact .init a
  | flush hsent => exact .flush hsent
  | chunk hseq a => exact State.Adds.chunk (s := s) hseq a

/-- A step of any kind sends what `State.Adds` lists, and leaves the address, the configuration and the latch as `State.Sends` says. -/
theorem step_sends {s t : State} (h : step s = .next t) : ∃ sent, s.Sends t sent := by
  obtain ⟨-, hp⟩ | ⟨-, -, rfl⟩ | ⟨-, -, -, rfl⟩ | ⟨-, -, i, rest, hd, he⟩ := step_cases h
  · obtain ⟨ht, -⟩ := panelStep_next hp
    rw [ht]
    exact ⟨[], .nothing rfl rfl rfl rfl⟩
  · exact seqStep_sends s
  · exact ⟨[], .nothing rfl rfl rfl rfl⟩
  · obtain ⟨sent, hsent⟩ := exec_host_sends (decode_host_port hd) he
    exact ⟨sent, hsent.of_setHostIn⟩

/-- Every transaction added goes to the slave address (R66). -/
theorem State.Adds.addr {s : State} {sent : List Tx} (h : s.Adds sent) : ∀ e ∈ sent, e.addr = s.slaveAddr := by
  cases h with
  | init a => exact List.forall_mem_singleton.mpr rfl
  | flush hsent => exact fun e he => (hsent e he).1
  | chunk _ a => exact List.forall_mem_singleton.mpr rfl

/-- Settles O48: the part of `step_sends` about the address, the configuration and the log. -/
theorem slaveAddrIsFixed : Obligations.SlaveAddrIsFixed := by
  unfold Obligations.SlaveAddrIsFixed
  intro s t h
  obtain ⟨sent, hadds, htlog, haddr, hparams, -⟩ := step_sends h
  exact ⟨haddr, hparams, sent, htlog, hadds.addr⟩

/-- Only INIT's transaction answered `Ok` sets the latch (R17, R79). -/
theorem State.Adds.eq_init {s : State} {sent : List Tx} (h : s.Adds sent) (hany : sent.any Tx.initOk = true) :
    sent = [⟨s.slaveAddr, initBytes, .ok⟩] := by
  cases h with
  | init a =>
    obtain rfl : a = .ok := by simpa [Tx.initOk] using hany
    rfl
  | flush hsent => simp [any_initOk_of_flush hsent] at hany
  | chunk _ a => simp [initOk_dataBytes] at hany

/-- Settles O46: the latch after a step is the latch before it, or set by an INIT answered `Ok`. -/
theorem onlyInitSetsLatch : Obligations.OnlyInitSetsLatch := by
  unfold Obligations.OnlyInitSetsLatch
  intro s t h
  obtain ⟨sent, hadds, htlog, -, -, hlatch⟩ := step_sends h
  refine ⟨fun hl => by rw [hlatch, hl, Bool.true_or], fun hl ht => ?_⟩
  rw [hlatch, hl, Bool.false_or] at ht
  rw [htlog, hadds.eq_init ht]
  rfl

/-! ## Who writes `FB` -/

/-- A transaction of the sequencer's leaves `FB` (R16). -/
theorem seqStep_fb (s : State) : (seqStep s).fb = s.fb := by
  cases hs : s.seq with
  | idle => rw [seqStep, hs]
  | initCmd => rw [seqStep_of_initCmd hs]; exact (initOp_frame s).1
  | flushCmd => rw [seqStep_of_flushCmd hs]; exact (flushTxStep_frame _ _ s).1
  | flushData k => rw [seqStep_of_flushData hs]; exact (flushTxStep_frame _ _ s).1

/-- A control byte or a command changes PANEL alone. -/
theorem exec_panel_next {i : Instr} {s t : State} (hi : i.port ≠ .host) (h : exec i s = .next t) : t = s.withPanel t.panel := by
  rw [← panelExec_eq_exec s hi] at h
  exact (panelExec_next h).1

/-- Settles O47: of the host operations only the three that draw write `FB`; PANEL's instructions change PANEL alone. -/
theorem onlyDrawingWritesFb : Obligations.OnlyDrawingWritesFb := by
  unfold Obligations.OnlyDrawingWritesFb
  refine ⟨fun i s t hclear hpixel htext h => ?_, seqStep_fb⟩
  by_cases hi : i.port = .host
  · obtain ⟨rfl, -⟩ | ⟨x, y, on, rfl, -⟩ | ⟨x, y, cps, rfl, -⟩ | ⟨k, -, -, rfl⟩ | ⟨-, rfl⟩ | ⟨-, rfl⟩ := exec_host_cases hi h
    · exact absurd rfl hclear
    · exact absurd rfl (hpixel x y on)
    · exact absurd rfl (htext x y cps)
    · rfl
    · exact (initOp_frame s).1
    · exact flushOp_fb s
  · rw [exec_panel_next hi h, State.withPanel_fb]

/-! ## The invariant -/

/-- Both memories in canonical form, inside their address spaces (R16, R25). -/
def State.MemoriesWf (s : State) : Prop := Memory.wf 512 s.fb = true ∧ Memory.wf 1024 s.panel.gddram = true

/-- A host operation keeps the memories in canonical form: drawing writes `FB` inside the frame, transactions write PANEL's RAM. -/
theorem exec_host_memoriesWf {i : Instr} {s t : State} (hi : i.port = .host) (h : exec i s = .next t) (hs : s.MemoriesWf) :
    t.MemoriesWf := by
  obtain ⟨hfb, hram⟩ := hs
  have hkept (u : State) (bytes : List Byte) (hu : Memory.wf 1024 u.panel.gddram = true) := txWrite_gddramWf u bytes hu
  obtain ⟨-, rfl⟩ | ⟨x, y, on, -, rfl⟩ | ⟨x, y, cps, -, -, rfl⟩ | ⟨k, -, -, rfl⟩ | ⟨-, rfl⟩ | ⟨-, rfl⟩ := exec_host_cases hi h
  · exact ⟨clearedFb_wf, hram⟩
  · exact ⟨putPixel_wf x y on hfb, hram⟩
  · exact ⟨drawText_wf s.params x y cps hfb, hram⟩
  · exact ⟨hfb, hram⟩
  · exact ⟨(initOp_frame s).1 ▸ hfb, initOp_panel_of_txWrite (P := fun p => Memory.wf 1024 p.gddram = true) hkept hram⟩
  · exact ⟨(flushOp_fb s).symm ▸ hfb, flushOp_panel_of_txWrite (P := fun p => Memory.wf 1024 p.gddram = true) hkept hram⟩

theorem seqStep_memoriesWf {s : State} (hs : s.MemoriesWf) : (seqStep s).MemoriesWf := by
  refine ⟨(seqStep_fb s).symm ▸ hs.1, ?_⟩
  cases hseq : s.seq with
  | idle => rw [seqStep, hseq]; exact hs.2
  | initCmd => rw [seqStep_of_initCmd hseq, initOp_panel]; exact txWrite_gddramWf _ _ hs.2
  | flushCmd => rw [seqStep_of_flushCmd hseq, flushTxStep_panel]; exact txWrite_gddramWf _ _ hs.2
  | flushData k => rw [seqStep_of_flushData hseq, flushTxStep_panel]; exact txWrite_gddramWf _ _ hs.2

theorem step_memoriesWf {s t : State} (h : step s = .next t) (hs : s.MemoriesWf) : t.MemoriesWf := by
  obtain ⟨-, hp⟩ | ⟨-, -, rfl⟩ | ⟨-, -, -, rfl⟩ | ⟨-, -, i, rest, hd, he⟩ := step_cases h
  · obtain ⟨ht, -, hram⟩ := panelStep_next hp
    exact ⟨by rw [ht]; exact hs.1, hram hs.2⟩
  · exact seqStep_memoriesWf hs
  · exact hs
  · exact exec_host_memoriesWf (decode_host_port hd) he hs

/-- Where a step leaves the sequencer: where it stood, Idle, or at a chunk of the FLUSH in progress (R21, R80). -/
theorem step_seq {s t : State} (h : step s = .next t) :
    t.seq = s.seq ∨ t.seq = .idle ∨
      ∃ k, t.seq = .flushData k ∧ k < chunkCount s.params ∧ (s.seq = .flushCmd ∨ ∃ j, s.seq = .flushData j) := by
  obtain ⟨-, hp⟩ | ⟨-, -, rfl⟩ | ⟨-, -, -, rfl⟩ | ⟨-, -, i, rest, hd, he⟩ := step_cases h
  · obtain ⟨ht, -⟩ := panelStep_next hp
    exact .inl (by rw [ht, State.withPanel_seq])
  · cases hs : s.seq with
    | idle => exact .inl (by rw [seqStep, hs, hs])
    | initCmd =>
      obtain ⟨-, -, -, -, hidle, -⟩ := initOp_frame s
      exact .inr (.inl (by rw [seqStep_of_initCmd hs, hidle]))
    | flushCmd =>
      rw [seqStep_of_flushCmd hs]
      exact .inr ((flushTxStep_seq _ _ s).imp id fun ⟨hk, hlt⟩ => ⟨_, hk, hlt, .inl rfl⟩)
    | flushData j =>
      rw [seqStep_of_flushData hs]
      exact .inr ((flushTxStep_seq _ _ s).imp id fun ⟨hk, hlt⟩ => ⟨_, hk, hlt, .inr ⟨j, rfl⟩⟩)
  · exact .inl rfl
  · obtain ⟨-, rfl⟩ | ⟨x, y, on, -, rfl⟩ | ⟨x, y, cps, -, -, rfl⟩ | ⟨k, -, -, rfl⟩ | ⟨-, rfl⟩ | ⟨-, rfl⟩ :=
      exec_host_cases (decode_host_port hd) he
    · exact .inl rfl
    · exact .inl rfl
    · exact .inl rfl
    · exact .inl rfl
    · obtain ⟨-, -, -, -, hidle, -⟩ := initOp_frame (s.setHostIn rest)
      exact .inr (.inl hidle)
    · obtain ⟨-, -, -, -, -, hidle⟩ := flushOp_frame (s.setHostIn rest)
      exact .inr (.inl hidle)

/-- A data transaction of the frame is legal (R58, R75, R76). -/
theorem legal_dataBytes {p : Config.Params} (hwf : p.wf = true) (addr : SlaveAddr) (m : Memory) {k : Nat} (hk : k < chunkCount p)
    (a : Answer) : Tx.legal p addr ⟨addr, dataBytes p m k, a⟩ = true := by
  obtain ⟨hpos, hle⟩ := chunkBytes_length hwf m hk
  simp [Tx.legal, dataBytes, hpos, hle]

theorem State.FlushTx.legal {s : State} {e : Tx} (hwf : s.params.wf = true) (h : s.FlushTx e) :
    Tx.legal s.params s.slaveAddr e = true := by
  obtain ⟨addr, bytes, a⟩ := e
  obtain ⟨rfl, rfl | ⟨k, hk, rfl⟩⟩ := h
  · simp [Tx.legal, flushBytes]
  · exact legal_dataBytes hwf _ _ hk a

/-- Under the invariant a step sends legal transactions only (R58, R66). -/
theorem State.Inv.adds_legal {s : State} (hinv : s.Inv) {sent : List Tx} (h : s.Adds sent) :
    ∀ e ∈ sent, Tx.legal s.params s.slaveAddr e = true := by
  cases h with
  | init a => exact List.forall_mem_singleton.mpr (by simp [Tx.legal, initBytes])
  | flush hsent => exact fun e he => (hsent e he).legal hinv.paramsWf
  | chunk hseq a => exact List.forall_mem_singleton.mpr (legal_dataBytes hinv.paramsWf _ _ (hinv.flushDataReady _ hseq).2 a)

/-- In the middle of a FLUSH the latch is set (R80). -/
theorem State.Inv.latch_of_flush {s : State} (hinv : s.Inv) (h : s.seq = .flushCmd ∨ ∃ j, s.seq = .flushData j) : s.latch = true := by
  obtain hcmd | ⟨j, hdata⟩ := h
  · exact hinv.flushCmdReady hcmd
  · exact (hinv.flushDataReady j hdata).1

/-- Settles O44: the memories by `step_memoriesWf`, the log and the latch by `step_sends`, the sequencer's position by `step_seq`. -/
theorem stepKeepsInvariant : Obligations.StepKeepsInvariant := by
  unfold Obligations.StepKeepsInvariant
  intro s t hinv h
  obtain ⟨sent, hadds, htlog, haddr, hparams, hlatch⟩ := step_sends h
  obtain ⟨hfb, hram⟩ := step_memoriesWf h ⟨hinv.fbWf, hinv.gddramWf⟩
  have hkept (hl : s.latch = true) : t.latch = true := by rw [hlatch, hl, Bool.true_or]
  refine ⟨hfb, hram, hparams ▸ hinv.paramsWf, fun e he => ?legal, ?latch, fun hcmd => ?flushCmd, fun k hdata => ?flushData⟩
  case legal =>
    rw [htlog, List.mem_append] at he
    rw [hparams, haddr]
    exact he.elim (hinv.tlogLegal e) (hinv.adds_legal hadds e)
  case latch => rw [hlatch, htlog, List.any_append, hinv.latchInit]
  case flushCmd =>
    obtain heq | hidle | ⟨k, hk, -⟩ := step_seq h
    · exact hkept (hinv.flushCmdReady (heq ▸ hcmd))
    · rw [hidle] at hcmd; cases hcmd
    · rw [hk] at hcmd; cases hcmd
  case flushData =>
    rw [hparams]
    obtain heq | hidle | ⟨j, hj, hlt, hflush⟩ := step_seq h
    · obtain ⟨hl, hlt⟩ := hinv.flushDataReady k (heq ▸ hdata)
      exact ⟨hkept hl, hlt⟩
    · rw [hidle] at hdata; cases hdata
    · obtain rfl : j = k := Seq.flushData.inj (hj.symm.trans hdata)
      exact ⟨hkept (hinv.latch_of_flush hflush), hlt⟩

/-- The spec's own configuration is legal (R19, R42). -/
theorem specParams_wf : Config.specParams.wf = true :=
  params_wf_iff.mpr ⟨by rw [Config.specParams, List.length_map, List.length_range]; rfl, by decide, by decide⟩

/-- Settles O45: nothing is written, sent or begun, and the configuration is the spec's own. -/
theorem constructionMeetsInvariant : Obligations.ConstructionMeetsInvariant := by
  unfold Obligations.ConstructionMeetsInvariant
  intro addr
  exact ⟨rfl, rfl, specParams_wf, fun _ he => absurd he List.not_mem_nil, rfl, fun h => (by cases h), fun _ h => (by cases h)⟩

/-! ## Results -/

/-- A well-formed host operation is not refused (R125). -/
theorem exec_host_next {i : Instr} (hi : i.port = .host) (hwf : i.wf = true) (s : State) : ∃ t, exec i s = .next t := by
  cases i <;> simp only [Instr.port, reduceCtorEq] at hi
  case drawText x y cps =>
    simp only [Instr.wf, Bool.and_eq_true] at hwf
    exact ⟨_, exec_drawText_scalar s hwf.2⟩
  case readFb k => exact ⟨_, exec_readFb s (of_decide_eq_true hwf)⟩
  all_goals exact ⟨_, rfl⟩

/-- INIT leaves PANEL nothing to act on. -/
theorem initOp_rx {s : State} (h : s.panel.rx = []) : (initOp s).panel.rx = [] :=
  initOp_panel_of_txWrite (P := fun p => p.rx = []) txWrite_rx h

/-- FLUSH leaves PANEL nothing to act on. -/
theorem flushOp_rx {s : State} (h : s.panel.rx = []) : (flushOp s).panel.rx = [] :=
  flushOp_panel_of_txWrite (P := fun p => p.rx = []) txWrite_rx h

/-- Settles O49: INIT and FLUSH end Idle with one result whatever the answers; the other four add a result and touch at most `FB`. -/
theorem everyHostOperationReturns : Obligations.EveryHostOperationReturns := by
  unfold Obligations.EveryHostOperationReturns
  intro s i hi hwf hseq hrx
  obtain ⟨t, h⟩ := exec_host_next hi hwf s
  refine ⟨t, ?_⟩
  obtain ⟨-, rfl⟩ | ⟨x, y, on, -, rfl⟩ | ⟨x, y, cps, -, -, rfl⟩ | ⟨k, -, -, rfl⟩ | ⟨rfl, rfl⟩ | ⟨rfl, rfl⟩ := exec_host_cases hi h
  case inr.inr.inr.inr.inl =>
    obtain ⟨-, -, -, hhost, hidle, -⟩ := initOp_frame s
    exact ⟨_, h, initOp_results s, hidle, initOp_rx hrx, hhost, fun hne => absurd rfl hne⟩
  case inr.inr.inr.inr.inr =>
    obtain ⟨-, -, -, -, hhost, hidle⟩ := flushOp_frame s
    obtain ⟨-, r, -, hres, -⟩ := flushOp_tlog_results s
    exact ⟨r, h, hres, hidle, flushOp_rx hrx, hhost, fun _ hne => absurd rfl hne⟩
  all_goals exact ⟨_, h, rfl, hseq, hrx, rfl, fun _ _ => ⟨fun _ hr => (by cases hr), rfl, rfl, rfl⟩⟩

/-- Settles O50: the table of R122, row by row. -/
theorem resultCodes : Obligations.ResultCodes := by
  unfold Obligations.ResultCodes
  exact ⟨rfl, fun _ => rfl, rfl, rfl, rfl, rfl⟩

end Sys2Proof.Machine
end

section
/-! PANEL's commands and data bytes one at a time: what each writes, a command cut short, and the pointer along its window
(42_ssd1306_commands.md R84 to R105). -/

namespace Sys2Proof.Machine

/-! ## Commands -/

/-- Settles O34: each one-byte command is one record update of PANEL. -/
theorem oneByteCommandsWriteRegister : Obligations.OneByteCommandsWriteRegister := by
  unfold Obligations.OneByteCommandsWriteRegister
  exact fun s => ⟨rfl, rfl, rfl, rfl, rfl, rfl, rfl⟩

/-- Settles O35: each command with one parameter is one record update of PANEL. -/
theorem parameterCommandsStoreParameter : Obligations.ParameterCommandsStoreParameter := by
  unfold Obligations.ParameterCommandsStoreParameter
  exact fun s => ⟨rfl, rfl, rfl, rfl, rfl, rfl, rfl, rfl, rfl⟩

/-- The column windows that have an effect (R103). -/
theorem columnRangeOk_iff {a b : Byte} : columnRangeOk a b = true ↔ a.toNat ≤ b.toNat ∧ b.toNat ≤ 0x7F := by
  simp [columnRangeOk]

/-- The page windows that have an effect (R104). -/
theorem pageRangeOk_iff {a b : Byte} : pageRangeOk a b = true ↔ a.toNat ≤ b.toNat ∧ b.toNat ≤ 0x07 := by
  simp [pageRangeOk]

/-- SET_COLUMN_RANGE of a window in range sets it (R103). -/
theorem exec_setColumnRange {a b : Byte} (s : State) (h : a.toNat ≤ b.toNat ∧ b.toNat ≤ 0x7F) :
    exec (.setColumnRange a b) s = .next (s.onPanel (Panel.setColumns a b)) :=
  if_pos (columnRangeOk_iff.mpr h)

/-- SET_PAGE_RANGE of a window in range sets it (R104). -/
theorem exec_setPageRange {a b : Byte} (s : State) (h : a.toNat ≤ b.toNat ∧ b.toNat ≤ 0x07) :
    exec (.setPageRange a b) s = .next (s.onPanel (Panel.setPages a b)) :=
  if_pos (pageRangeOk_iff.mpr h)

/-- Settles O36: the two window commands test their parameters; the window the block sends passes. -/
theorem rangeCommandsSetWindow : Obligations.RangeCommandsSetWindow := by
  unfold Obligations.RangeCommandsSetWindow
  refine ⟨fun s a b hab hb => exec_setColumnRange s ⟨hab, hb⟩, fun s a b hab hb => exec_setPageRange s ⟨hab, hb⟩,
    fun s => ⟨_, exec_setColumnRange s (by decide), rfl, rfl, rfl⟩, fun s => ⟨_, exec_setPageRange s (by decide), rfl, rfl, rfl⟩,
    fun s a b h => if_neg ?columns, fun s a b h => if_neg ?pages⟩
  case columns => rw [columnRangeOk_iff]; omega
  case pages => rw [pageRangeOk_iff]; omega

/-! ## A command cut short -/

/-- A payload that ends inside a command draws the register that the command writes (R84; log 12). -/
theorem step_of_cutCommand {s : State} {cmd : Byte} {bs : List Byte} (href : s.panel.refused = none)
    (hmode : s.panel.mode = some .command) (hcut : decodeCommand (cmd :: bs) = .error (.partialCommand cmd))
    (hrx : s.panel.rx = cmd :: bs) : step s = .next ((s.onPanel (Panel.drawRegister cmd)).setRx []) := by
  rw [step_of_rx hrx, panelStep_of_commandMode href hmode hrx, panelCommand, decode_command, hcut]

/-- Settles O39: in each of the thirteen ways the decoder finds the cut, and the register drawn is the command's. -/
theorem cutCommandDrawsItsRegister : Obligations.CutCommandDrawsItsRegister := by
  unfold Obligations.CutCommandDrawsItsRegister
  intro s href hmode
  have hcut {cmd : Byte} {bs : List Byte} := step_of_cutCommand (cmd := cmd) (bs := bs) href hmode
  refine ⟨hcut rfl, hcut rfl, hcut rfl, hcut rfl, hcut rfl, hcut rfl, hcut rfl, hcut rfl, hcut rfl, ?columns, ?pages⟩
  case columns => exact fun h => h.elim (hcut rfl) (hcut rfl)
  case pages => exact fun h => h.elim (hcut rfl) (hcut rfl)

/-! ## A data byte -/

/-- Storing a byte and moving the pointer changes the display RAM, the pointer and the counter of draws alone (R105). -/
theorem Panel.store_advance_eq (d : Byte) (p : Panel) :
    (p.store d).advance = { p with
      gddram := (p.store d).advance.gddram, colPtr := (p.store d).advance.colPtr, pagePtr := (p.store d).advance.pagePtr,
      draws := (p.store d).advance.draws } := by
  unfold Panel.advance Panel.nextPage
  split_ifs <;> rfl

/-- Inside its window the column moves on (R105). -/
theorem Panel.advance_column {p : Panel} (hend : p.colPtr ≠ p.colEnd) (h127 : p.colPtr ≠ 127#7) :
    p.advance.colPtr = p.colPtr + 1#7 ∧ p.advance.pagePtr = p.pagePtr := by
  rw [Panel.advance, if_neg hend, if_neg h127]
  exact ⟨rfl, rfl⟩

/-- At the end of a row the column goes back and the page moves on (R105). -/
theorem Panel.advance_row {p : Panel} (hend : p.colPtr = p.colEnd) : p.advance = Panel.nextPage { p with colPtr := p.colStart } := by
  rw [Panel.advance, if_pos hend]

/-- At the end of the window the page goes back (R105). -/
theorem Panel.nextPage_last {p : Panel} (hend : p.pagePtr = p.pageEnd) : p.nextPage = { p with pagePtr := p.pageStart } := by
  rw [Panel.nextPage, if_pos hend]

/-- Inside its window the page moves on (R105). -/
theorem Panel.nextPage_inside {p : Panel} (hend : p.pagePtr ≠ p.pageEnd) (h7 : p.pagePtr ≠ 7#3) :
    p.nextPage = { p with pagePtr := p.pagePtr + 1#3 } := by
  rw [Panel.nextPage, if_neg hend, if_neg h7]

/-- Every place of the display RAM has an address of its own (R25). -/
theorem gddramAddr_inj {p c q d : Nat} (hc : c < 128) (hd : d < 128) (h : gddramAddr p c = gddramAddr q d) : p = q ∧ c = d := by
  unfold gddramAddr at h
  omega

/-- Settles O38: the byte is stored where the pointer stands; where it stands in the window decides how it moves on. -/
theorem displayDataFillsWindow : Obligations.DisplayDataFillsWindow := by
  unfold Obligations.DisplayDataFillsWindow
  intro s d ds href hmode hrx
  have hstep : step s = panelData d (s.setRx ds) := by rw [step_of_rx hrx, panelStep_of_dataMode href hmode hrx]
  obtain ⟨-, -, hram, -, -⟩ := Panel.advance_frame ((s.setRx ds).panel.store d)
  refine ⟨fun haddr => ?refused, fun haddr => ⟨s.withPanel ((s.setRx ds).panel.store d).advance, ?next, ?frame, ?written, ?kept,
    ?column, ?wrap, ?row⟩⟩
  case refused => rw [hstep]; exact if_neg haddr
  case next => rw [hstep]; exact if_pos haddr
  case frame => exact congrArg s.withPanel (Panel.store_advance_eq d (s.setRx ds).panel)
  case written =>
    rw [State.withPanel_panel, hram]
    exact gddramRead_gddramWrite_same _ _ _ d
  case kept =>
    intro p c _ hc hne
    rw [State.withPanel_panel, hram]
    exact gddramRead_gddramWrite_other _ d fun h => hne (gddramAddr_inj hc s.panel.colPtr.isLt h)
  case column => exact Panel.advance_column (p := (s.setRx ds).panel.store d)
  case wrap =>
    intro hend hpage
    rw [State.withPanel_panel, Panel.advance_row (by exact hend), Panel.nextPage_last (by exact hpage)]
    exact ⟨rfl, rfl⟩
  case row =>
    intro hend hpage h7
    rw [State.withPanel_panel, Panel.advance_row (by exact hend), Panel.nextPage_inside (by exact hpage) (by exact h7)]
    exact ⟨rfl, rfl⟩

end Sys2Proof.Machine
end

section
/-! What PANEL holds after an INIT or a FLUSH that went wrong: the bytes delivered, and PANEL's own refusal (40_transport.md R69, R72,
42_ssd1306_commands.md R84, 60_exceptions.md R137). -/

namespace Sys2Proof.Machine

/-- What PANEL receives of a transaction answered with an error is the part delivered (R69). -/
theorem txWrite_panel_err (s : State) (b : List Byte) {k : IoError} (h : (s.upcoming 0).answer = .err k) :
    (txWrite s b).panel =
      (panelReceive (b.take (s.upcoming 0).delivered) (s.dropReply.logTx ⟨s.slaveAddr, b, txAnswer s⟩)).panel := by
  rw [txWrite, deliveredBytes, h]

/-! ## INIT -/

/-- Settles O24: the whole init transaction reaches PANEL, and all its commands act. -/
theorem initConfiguresPanel : Obligations.InitConfiguresPanel := by
  unfold Obligations.InitConfiguresPanel
  intro s href hans
  obtain ⟨-, hres⟩ := initOp_ok hans
  exact ⟨initOp s, exec_init s, initOp_panel_of_ok href (by rw [hres, List.getLast?_concat])⟩

/-- The first `n` of the 26 bytes of the init transaction, each count by computation (R77, R84). -/
theorem panelReceive_initBytes_take_le {n : Nat} (hn : n ≤ 26) (s : State) (h : s.panel.refused = none) :
    panelReceive (initBytes.take n) s = s.withPanel (s.panel.afterInitPart n) := by
  obtain ⟨fb, latch, slaveAddr, seq, tlog, results, p, params, hostIn, replies, txDraws⟩ := s
  obtain ⟨r1, r2, r3, r4, r5, r6, r7, r8, r9, r10, r11, r12, r13, r14, r15, g, c1, c2, c3, p1, p2, p3, m, x, f, d⟩ := p
  simp only at h
  subst h
  interval_cases n <;> rfl

/-- Counts past the 26 bytes are all of them (R69). -/
theorem Panel.afterInitPart_add (n : Nat) (p : Panel) : p.afterInitPart (n + 26) = p.afterInitPart 26 := rfl

/-- PANEL after the first `n` bytes of the init transaction, for every `n` (R84, R145). -/
theorem panelReceive_initBytes_take (n : Nat) (s : State) (h : s.panel.refused = none) :
    panelReceive (initBytes.take n) s = s.withPanel (s.panel.afterInitPart n) := by
  by_cases hn : n ≤ 26
  · exact panelReceive_initBytes_take_le hn s h
  · obtain ⟨m, rfl⟩ := Nat.exists_eq_add_of_le' (Nat.le_of_not_le hn)
    rw [List.take_of_length_le (Nat.le_add_left 26 m), panelReceive_initBytes s h, Panel.afterInitPart_add m]

/-- Settles O25: PANEL receives the part delivered of the init transaction. -/
theorem failedInitDeliversPart : Obligations.FailedInitDeliversPart := by
  unfold Obligations.FailedInitDeliversPart
  intro s k href hans
  refine ⟨initOp s, exec_init s, ?_⟩
  rw [initOp_panel, txWrite_panel_err (s.setSeq .initCmd) _ hans, panelReceive_initBytes_take _ _ (by simpa using href)]
  simp [State.upcoming_setSeq]

/-! ## FLUSH's command transaction -/

/-- The first `n` of the 7 bytes of the flush command transaction, each count by computation (R78, R84). -/
theorem panelReceive_flushBytes_take_le {n : Nat} (hn : n ≤ 7) (s : State) (h : s.panel.refused = none) :
    panelReceive (flushBytes.take n) s = s.withPanel (s.panel.afterFlushPart n) := by
  obtain ⟨fb, latch, slaveAddr, seq, tlog, results, p, params, hostIn, replies, txDraws⟩ := s
  obtain ⟨r1, r2, r3, r4, r5, r6, r7, r8, r9, r10, r11, r12, r13, r14, r15, g, c1, c2, c3, p1, p2, p3, m, x, f, d⟩ := p
  simp only at h
  subst h
  interval_cases n <;> rfl

/-- Counts past the 7 bytes are all of them (R69). -/
theorem Panel.afterFlushPart_add (n : Nat) (p : Panel) : p.afterFlushPart (n + 7) = p.afterFlushPart 7 := rfl

/-- PANEL after the first `n` bytes of the flush command transaction, for every `n` (R84). -/
theorem panelReceive_flushBytes_take (n : Nat) (s : State) (h : s.panel.refused = none) :
    panelReceive (flushBytes.take n) s = s.withPanel (s.panel.afterFlushPart n) := by
  by_cases hn : n ≤ 7
  · exact panelReceive_flushBytes_take_le hn s h
  · obtain ⟨m, rfl⟩ := Nat.exists_eq_add_of_le' (Nat.le_of_not_le hn)
    rw [List.take_of_length_le (Nat.le_add_left 7 m), panelReceive_flushBytes s h, Panel.afterFlushPart_add m]
    rfl

/-- A FLUSH whose command transaction failed leaves PANEL as the bytes delivered of it do (R69, R128). -/
theorem flushOp_panel_of_cmd_err {s : State} {k : IoError} (hl : s.latch = true) (href : s.panel.refused = none)
    (hans : (s.upcoming 0).answer = .err k) : (flushOp s).panel = s.panel.afterFlushPart (s.upcoming 0).delivered := by
  rw [flushOp, State.ready, if_pos hl, flushFrame, show txAnswer s = .err k from hans, State.raise_panel,
    txWrite_panel_err (s.setSeq .flushCmd) _ hans, panelReceive_flushBytes_take _ _ (by simpa using href)]
  simp [State.upcoming_setSeq]

/-! ## FLUSH's data transactions, up to the first that fails -/

/-- PANEL inside a FLUSH of frame `fb`, `n` bytes of it written, against PANEL `p0`: the window is set, the pointer and the display RAM
are as in `Panel.FrameWritten`, and every other register is `p0`'s. (`Panel.FrameWritten` asks for a display that is on, which plays no
part here.) -/
structure Panel.FlushedUpTo (p0 : Panel) (fb : Memory) (n : Nat) (p : Panel) : Prop where
  frame : p = { p0 with
    colStart := 0#7, colEnd := 127#7, pageStart := 0#3, pageEnd := 3#3,
    gddram := p.gddram, colPtr := p.colPtr, pagePtr := p.pagePtr }
  written : Panel.FrameWritten fb p0.gddram n { p with displayOn := true }

/-- Whether the display is on plays no part in moving the pointer. -/
theorem Panel.advance_displayOn (p : Panel) (v : Bool) :
    Panel.advance { p with displayOn := v } = { p.advance with displayOn := v } := by
  simp only [Panel.advance, Panel.nextPage]
  split_ifs <;> rfl

theorem Panel.FlushedUpTo.withTransaction {p0 p : Panel} {fb : Memory} {n : Nat} (h : p0.FlushedUpTo fb n p) (mode : Option RxMode)
    (rx : List Byte) : Panel.FlushedUpTo { p0 with mode := mode, rx := rx } fb n { p with mode := mode, rx := rx } :=
  ⟨congrArg (fun q : Panel => { q with mode := mode, rx := rx }) h.frame, h.written.withTransaction mode rx⟩

theorem Panel.FlushedUpTo.withRx {p0 p : Panel} {fb : Memory} {n : Nat} (h : p0.FlushedUpTo fb n p) (rx : List Byte) :
    (p0.withRx rx).FlushedUpTo fb n (p.withRx rx) :=
  ⟨congrArg (Panel.withRx · rx) h.frame, h.written.withTransaction p.mode rx⟩

/-- The flush command transaction puts PANEL at the start of the frame (R78, R103, R104). -/
theorem Panel.FlushedUpTo.start (fb : Memory) {p : Panel} (hmode : p.addrMode = 0x00#8) (href : p.refused = none) :
    Panel.FlushedUpTo { p with mode := some .command, rx := [] } fb 0 { p with
      colStart := 0#7, colEnd := 127#7, colPtr := 0#7, pageStart := 0#3, pageEnd := 3#3, pagePtr := 0#3,
      mode := some .command, rx := [] } :=
  ⟨rfl, Panel.FrameWritten.start fb (p := { p with displayOn := true }) hmode rfl href⟩

/-- The next byte of the frame is written at the pointer, which moves on (R105). -/
theorem Panel.FlushedUpTo.next {p0 p : Panel} {fb : Memory} {n : Nat} (h : p0.FlushedUpTo fb n p) (hn : n < 512) :
    p0.FlushedUpTo fb (n + 1) (p.store (fbRead fb n)).advance := by
  have hwindow : (p.store (fbRead fb n)).InFlushWindow n := { h.written.window with }
  obtain ⟨col, page, heq, -, -⟩ := hwindow.advance_eq
  refine ⟨?frame, ?written⟩
  case frame =>
    rw [heq]
    exact congrArg (fun q : Panel =>
      { q with gddram := (p.store (fbRead fb n)).gddram, colPtr := col, pagePtr := page }) h.frame
  case written =>
    rw [← Panel.advance_displayOn]
    exact h.written.next hn

/-- A slice of the frame is written byte after byte (R105). -/
theorem Panel.FlushedUpTo.storeAll_fbSlice {p0 p : Panel} {fb : Memory} {lo hi : Nat} (h : p0.FlushedUpTo fb lo p) (hle : lo ≤ hi)
    (hhi : hi ≤ 512) : p0.FlushedUpTo fb hi (p.storeAll (fbSlice fb lo hi)) := by
  induction hle using Nat.decreasingInduction generalizing p with
  | self => rwa [fbSlice_eq_nil fb le_rfl]
  | of_succ lo hlt ih =>
    rw [fbSlice_cons fb hlt]
    exact ih (h.next (by omega))

/-- A data transaction received whole writes its slice of the frame (R105). -/
theorem panelReceive_flushedUpTo {s : State} {p0 : Panel} {fb : Memory} {lo hi : Nat} (h : p0.FlushedUpTo fb lo s.panel) (hle : lo ≤ hi)
    (hhi : hi ≤ 512) :
    Panel.FlushedUpTo { p0 with mode := some .data, rx := [] } fb hi (panelReceive (0x40#8 :: fbSlice fb lo hi) s).panel := by
  rw [panelReceive_data s _ h.written.refused h.written.addrMode]
  exact ((h.withTransaction (some .data) (fbSlice fb lo hi)).storeAll_fbSlice hle hhi).withRx []

/-- PANEL received no byte of a transaction: only its mode starts afresh (R27, R69). -/
theorem panelReceive_nil {s : State} (h : s.panel.refused = none) :
    panelReceive [] s = s.withPanel { s.panel with mode := none, rx := [] } := by
  rw [panelReceive, h]
  rfl

/-- The mode that the first `n` bytes of a data transaction leave PANEL in (R27, R85). -/
def dataMode (n : Nat) : Option RxMode := if n = 0 then none else some .data

/-- The beginning of a slice is a slice. -/
theorem fbSlice_take (m : Memory) (lo hi n : Nat) : (fbSlice m lo hi).take n = fbSlice m lo (lo + min n (hi - lo)) := by
  rw [fbSlice, fbSlice, ← List.map_take, List.take_range, Nat.add_sub_cancel_left]

/-- The first `n` bytes of a data transaction, the control byte among them, write the first `n - 1` of its slice (R69, R105). -/
theorem panelReceive_take_flushedUpTo {s : State} {p0 : Panel} {fb : Memory} {lo hi : Nat} (h : p0.FlushedUpTo fb lo s.panel)
    (hhi : hi ≤ 512) (hle : lo ≤ hi) (n : Nat) :
    Panel.FlushedUpTo { p0 with mode := dataMode n, rx := [] } fb (lo + min (n - 1) (hi - lo))
      (panelReceive ((0x40#8 :: fbSlice fb lo hi).take n) s).panel := by
  cases n with
  | zero =>
    rw [List.take_zero, panelReceive_nil h.written.refused]
    simpa [dataMode] using h.withTransaction none []
  | succ n =>
    rw [List.take_succ_cons, fbSlice_take]
    exact panelReceive_flushedUpTo h (Nat.le_add_right _ _) (by omega)

/-- A data transaction answered `Ok` writes its chunk (R69, R105). -/
theorem txWrite_flushedUpTo_of_ok {s : State} {p0 : Panel} {k : Nat} (hans : txAnswer s = .ok)
    (h : p0.FlushedUpTo s.fb (k * s.params.dataChunk) s.panel) (hk : k * s.params.dataChunk ≤ 512) :
    Panel.FlushedUpTo { p0 with mode := some .data, rx := [] } s.fb (min 512 (k * s.params.dataChunk + s.params.dataChunk))
      (txWrite s (dataBytes s.params s.fb k)).panel := by
  rw [txWrite_panel_ok s _ hans]
  exact panelReceive_flushedUpTo (by simpa using h) (by omega) (by omega)

/-- A data transaction that failed writes the part of its chunk that was delivered (R69, R105). -/
theorem txWrite_flushedUpTo_of_err {s : State} {p0 : Panel} {k : Nat} {e : IoError} (hans : (s.upcoming 0).answer = .err e)
    (h : p0.FlushedUpTo s.fb (k * s.params.dataChunk) s.panel) (hk : k * s.params.dataChunk ≤ 512) :
    Panel.FlushedUpTo { p0 with mode := dataMode (s.upcoming 0).delivered, rx := [] } s.fb
      (bytesShown s.params k (s.upcoming 0).delivered) (txWrite s (dataBytes s.params s.fb k)).panel := by
  rw [txWrite_panel_err s _ hans]
  exact panelReceive_take_flushedUpTo (by simpa using h) (by omega) (by omega) _

/-- FLUSH's data loop from chunk `k` on, its `j`-th transaction from there the first to fail: PANEL holds the frame up to the last byte
delivered (R69, R76, R128). -/
theorem flushChunks_flushedUpTo {s : State} {p0 : Panel} {k j n : Nat} {e : IoError} (hwf : s.params.wf = true) (hj : j < n)
    (hn : k + n ≤ chunkCount s.params) (hok : ∀ i, i < j → (s.upcoming i).answer = .ok) (herr : (s.upcoming j).answer = .err e)
    (h : p0.FlushedUpTo s.fb (k * s.params.dataChunk) s.panel) :
    Panel.FlushedUpTo { p0 with mode := dataMode (s.upcoming j).delivered, rx := [] } s.fb
      (bytesShown s.params (k + j) (s.upcoming j).delivered) (flushChunks (List.range' k n) s).panel := by
  induction j generalizing s p0 k n with
  | zero =>
    obtain ⟨n, rfl⟩ := Nat.exists_eq_succ_of_ne_zero hj.ne'
    have hlt := (chunk_start_lt hwf (k := k)).mp (by omega)
    rw [List.range'_succ, flushChunks, show txAnswer s = .err e from herr]
    exact txWrite_flushedUpTo_of_err (s := s.setSeq (.flushData k)) herr h hlt.le
  | succ j ih =>
    obtain ⟨n, rfl⟩ := Nat.exists_eq_succ_of_ne_zero (Nat.ne_of_gt (Nat.lt_of_le_of_lt (Nat.zero_le _) hj))
    have h0 : txAnswer s = .ok := hok 0 (Nat.succ_pos j)
    have hlt := (chunk_start_lt hwf (k := k + 1)).mp (by omega)
    rw [Nat.succ_mul] at hlt
    have hfirst := txWrite_flushedUpTo_of_ok (s := s.setSeq (.flushData k)) h0 h
      (show k * s.params.dataChunk ≤ 512 by omega)
    rw [List.range'_succ, flushChunks, h0]
    have hrest := ih (s := txWrite (s.setSeq (.flushData k)) (dataBytes s.params s.fb k)) (k := k + 1) (n := n)
      (by simpa using hwf) (by omega) (by simp; omega)
      (fun i hi => by simpa [State.upcoming_setSeq] using hok (i + 1) (by omega))
      (by simpa [State.upcoming_setSeq] using herr) (by
        simp only [txWrite_params, State.setSeq_params, txWrite_fb, State.setSeq_fb, Nat.succ_mul]
        rw [← Nat.min_eq_right hlt.le]
        exact hfirst)
    simpa [State.upcoming_setSeq, Nat.add_assoc, Nat.add_comm 1 j] using hrest

/-- A FLUSH whose data transaction `j` is the first to fail (R69, R128). -/
theorem flushOp_flushedUpTo {s : State} {j : Nat} {e : IoError} (hl : s.latch = true) (hwf : s.params.wf = true)
    (href : s.panel.refused = none) (hmode : s.panel.addrMode = 0x00#8) (hj : j < chunkCount s.params)
    (hok : ∀ i, i ≤ j → (s.upcoming i).answer = .ok) (herr : (s.upcoming (j + 1)).answer = .err e) :
    Panel.FlushedUpTo { s.panel with mode := dataMode (s.upcoming (j + 1)).delivered, rx := [] } s.fb
      (bytesShown s.params j (s.upcoming (j + 1)).delivered) (flushOp s).panel := by
  have h0 : txAnswer s = .ok := hok 0 (Nat.zero_le j)
  have hstart : Panel.FlushedUpTo { s.panel with mode := some .command, rx := [] } s.fb 0
      (txWrite (s.setSeq .flushCmd) flushBytes).panel := by
    rw [txWrite_panel_ok (s.setSeq .flushCmd) _ h0, panelReceive_flushBytes _ (by simpa using href)]
    simpa using Panel.FlushedUpTo.start s.fb hmode href
  have hdata := flushChunks_flushedUpTo (s := txWrite (s.setSeq .flushCmd) flushBytes) (k := 0) (j := j)
    (n := chunkCount s.params) (e := e) (by simpa using hwf) hj (by simp)
    (fun i hi => by simpa [State.upcoming_setSeq] using hok (i + 1) hi) (by simpa [State.upcoming_setSeq] using herr)
    (by simpa using hstart)
  rw [flushOp, State.ready, if_pos hl, flushFrame, h0, List.range_eq_range']
  simpa [State.upcoming_setSeq] using hdata

/-- Settles O57: the command transaction's delivered bytes, or the chunks up to the one that failed and the delivered part of it. -/
theorem failedFlushDeliversPart : Obligations.FailedFlushDeliversPart := by
  unfold Obligations.FailedFlushDeliversPart
  refine ⟨fun s k hl href hans => ⟨flushOp s, exec_flush s, flushOp_panel_of_cmd_err hl href hans⟩, ?_⟩
  intro s j k hl hwf href hmode hj hok herr
  have h := flushOp_flushedUpTo hl hwf href hmode hj hok herr
  refine ⟨flushOp s, exec_flush s, h.frame, fun p c _ _ => ?_, h.written.window.colPtr, h.written.window.pagePtr⟩
  have haddr : c + 128 * p = gddramAddr p c := Nat.add_comm _ _
  rw [haddr]
  split
  · next hlt => exact h.written.shown p c hlt
  · next hge => exact h.written.kept p c (Nat.le_of_not_lt hge)

/-! ## PANEL's own refusal -/

/-- PANEL takes the data control byte and goes on in data mode (R85). -/
theorem panelReceive_ctrlData {s : State} (h : s.panel.refused = none) (ds : List Byte) :
    panelReceive (0x40#8 :: ds) s = panelRun ds.length (s.withPanel { s.panel with mode := some .data, rx := ds }) := by
  obtain ⟨fb, latch, slaveAddr, seq, tlog, results, p, params, hostIn, replies, txDraws⟩ := s
  obtain ⟨r1, r2, r3, r4, r5, r6, r7, r8, r9, r10, r11, r12, r13, r14, r15, g, c1, c2, c3, p1, p2, p3, m, x, f, d⟩ := p
  simp only at h
  subst h
  rfl

/-- Outside horizontal addressing mode the first data byte sets the refusal mark (R105, R137; log 14). -/
theorem panelReceive_data_refused {s : State} (h : s.panel.refused = none) (ha : s.panel.addrMode ≠ 0x00#8) (d : Byte)
    (ds : List Byte) : (panelReceive (0x40#8 :: d :: ds) s).panel.refused = some (.addressingMode s.panel.addrMode) := by
  have hstep : panelStep (s.withPanel { s.panel with mode := some .data, rx := d :: ds }) =
      .refused (.addressingMode s.panel.addrMode) :=
    (panelStep_of_dataMode (s := s.withPanel { s.panel with mode := some .data, rx := d :: ds }) h rfl rfl).trans (if_neg ha)
  rw [panelReceive_ctrlData h, List.length_cons, panelRun]
  simp only [State.withPanel_panel, hstep, State.markRefused_panel]

/-- So does a data transaction answered `Ok` (R69). -/
theorem txWrite_data_refused {s : State} (hans : txAnswer s = .ok) (href : s.panel.refused = none) (ha : s.panel.addrMode ≠ 0x00#8)
    (d : Byte) (ds : List Byte) :
    (txWrite s (0x40#8 :: d :: ds)).panel.refused = some (.addressingMode s.panel.addrMode) := by
  rw [txWrite_panel_ok s _ hans, panelReceive_data_refused (by simpa using href) (by simpa using ha)]
  simp

/-- The flush command transaction, answered `Ok`, leaves the mark and the addressing mode (R103, R104). -/
theorem txWrite_flushBytes_panel {s : State} (hans : txAnswer s = .ok) (href : s.panel.refused = none) :
    (txWrite s flushBytes).panel.refused = none ∧ (txWrite s flushBytes).panel.addrMode = s.panel.addrMode := by
  rw [txWrite_panel_ok s _ hans, panelReceive_flushBytes _ (by simpa using href)]
  simpa using href

/-- A marked PANEL is left as it is by INIT and FLUSH (log 14). -/
theorem initOp_panel_refused {s : State} {r : Refusal} (h : s.panel.refused = some r) : (initOp s).panel = s.panel :=
  initOp_panel_of_txWrite (P := (· = s.panel)) (fun u b hu => (txWrite_panel_refused u b r (by rw [hu, h])).trans hu) rfl

theorem flushChunks_panel_refused (ks : List Nat) {s : State} {r : Refusal} (h : s.panel.refused = some r) :
    (flushChunks ks s).panel = s.panel :=
  flushChunks_panel_of_txWrite (P := (· = s.panel)) (fun u b hu => (txWrite_panel_refused u b r (by rw [hu, h])).trans hu) ks rfl

theorem flushOp_panel_refused {s : State} {r : Refusal} (h : s.panel.refused = some r) : (flushOp s).panel = s.panel :=
  flushOp_panel_of_txWrite (P := (· = s.panel)) (fun u b hu => (txWrite_panel_refused u b r (by rw [hu, h])).trans hu) rfl

/-- A chunk of the frame is not empty, so its transaction has a data byte (R76). -/
theorem dataBytes_eq_cons {p : Config.Params} (h : p.wf = true) (m : Memory) {k : Nat} (hk : k < chunkCount p) :
    ∃ d ds, dataBytes p m k = 0x40#8 :: d :: ds := by
  obtain ⟨hpos, -⟩ := chunkBytes_length h m hk
  obtain ⟨d, ds, hd⟩ := List.exists_cons_of_length_pos hpos
  exact ⟨d, ds, by rw [dataBytes, hd]⟩

/-- A FLUSH whose replies are all `Ok` marks a PANEL outside horizontal addressing mode with its first data byte (R105, R137). -/
theorem flushOp_marks_panel {s : State} (hl : s.latch = true) (hwf : s.params.wf = true) (href : s.panel.refused = none)
    (hmode : s.panel.addrMode ≠ 0x00#8) (hok : ∀ j, j ≤ chunkCount s.params → (s.upcoming j).answer = .ok) :
    (flushOp s).panel.refused = some (.addressingMode s.panel.addrMode) := by
  have hcount := chunkCount_pos hwf
  obtain ⟨d, ds, hchunk⟩ := dataBytes_eq_cons hwf s.fb hcount
  obtain ⟨n, hn⟩ := Nat.exists_eq_succ_of_ne_zero hcount.ne'
  have h0 : txAnswer s = .ok := hok 0 (Nat.zero_le _)
  have h1 : txAnswer (txWrite (s.setSeq .flushCmd) flushBytes) = .ok := by
    rw [txAnswer_txWrite, State.upcoming_setSeq]
    exact hok 1 hcount
  obtain ⟨hunmarked, hsame⟩ := txWrite_flushBytes_panel (s := s.setSeq .flushCmd) h0 href
  have hmark := txWrite_data_refused (s := (txWrite (s.setSeq .flushCmd) flushBytes).setSeq (.flushData 0)) h1 hunmarked
    (by rw [State.setSeq_panel, hsame]; exact hmode) d ds
  rw [flushOp, State.ready, if_pos hl, flushFrame, h0, hn, List.range_eq_range', List.range'_succ]
  simp only [flushChunks, h1, txWrite_params, txWrite_fb, State.setSeq_params, State.setSeq_fb, hchunk]
  rw [flushChunks_panel_refused _ hmark, hmark, State.setSeq_panel, hsame, State.setSeq_panel]

/-- Settles O42: FLUSH's log and result do not depend on PANEL, whose mark the first data byte sets; a marked PANEL receives nothing, and
drawing does not touch it. -/
theorem refusedPanelKeepsMark : Obligations.RefusedPanelKeepsMark := by
  unfold Obligations.RefusedPanelKeepsMark
  refine ⟨fun s hl hwf href hmode hok => ?marks, fun s i r href hi hwf => ?keeps⟩
  case marks =>
    obtain ⟨htlog, hres⟩ := flushOp_ok s hl hok
    exact ⟨flushOp s, exec_flush s, htlog, hres, flushOp_marks_panel hl hwf href hmode hok⟩
  case keeps =>
    obtain ⟨t, h⟩ := exec_host_next hi hwf s
    refine ⟨t, h, ?_⟩
    obtain ⟨-, rfl⟩ | ⟨x, y, on, -, rfl⟩ | ⟨x, y, cps, -, -, rfl⟩ | ⟨k, -, -, rfl⟩ | ⟨-, rfl⟩ | ⟨-, rfl⟩ := exec_host_cases hi h
    case inr.inr.inr.inr.inl => exact initOp_panel_refused href
    case inr.inr.inr.inr.inr => exact flushOp_panel_refused href
    all_goals rfl

end Sys2Proof.Machine
end
